-- ==== Sys2Proof/Word.lean ====
section
/-! DEFINITION. The widths of 00_scope.md R7 and R8 as bit-vector types. -/

namespace Sys2Proof

/-- A 4-bit field: ROP, CHAN, OPC, SEL (00_scope.md R7). -/
abbrev Nibble := BitVec 4

/-- A command or data byte of a frame (00_scope.md R7). -/
abbrev Byte := BitVec 8

/-- The DATA field and the DAC's data register value, 16 bits, unsigned (00_scope.md R7, R8). -/
abbrev Half := BitVec 16

/-- A request word, `REQ_W` = 32 bits (00_scope.md R8). -/
abbrev ReqWord := BitVec 32

/-- A 7-bit device address (00_scope.md R7). -/
abbrev BusAddr := BitVec 7

end Sys2Proof
end

