-- ==== Sys2Proof/Config.lean ====
section
/-! DEFINITION. What the spec leaves to the implementation: the parameters of the transport's status. None of them
has a body, so no proof can learn a value. The free draws of the outside world (the transport's statuses, how much of an
abandoned frame reached the chip) are carried by the turns of Machine/State.lean (log entries 5 and 6). -/

namespace Sys2Proof

/-- `TS_W`, the width of the transport status: an OPEN parameter of the model (00_scope.md R8, decision D8). -/
opaque Config.tsW : Nat

/-- `TStatus`, the transport's status value (00_scope.md R8). The block forwards it and never inspects it (R31). -/
abbrev TStatus := BitVec Config.tsW

/-- `TS_OK`, the status that means success: an OPEN parameter; the block never tests it (00_scope.md R8). -/
opaque Config.tsOk : TStatus

end Sys2Proof
end

