-- ==== Sys2Proof/Syntax.lean ====
section
/-! DEFINITION. The instructions: one constructor per row of spec/opcode_table.json. -/

namespace Sys2Proof

/-- The two formats of the opcode table and of 30_encoding.md R71: a one-byte control frame and a three-byte data
frame. A command byte is read together with the format of the frame it leads, because the byte 0x05 alone does not
say which row it is (R70). -/
inductive FrameFormat where
  | control   -- `[cmd]`
  | data      -- `[cmd, hi, lo]`
  deriving DecidableEq, Repr

/-- The seven frame operations, ROP 0x1 to 0x7 (30_encoding.md R61): the domain of CMDSEL and FRAME (R110, R112). -/
inductive FrameOp where
  | write | store | update | powerDown | powerOff | intRef | extRef
  deriving DecidableEq, Repr

/-- The instructions. A request constructor carries every field of its word, the ignored ones too, so that decoding
drops no bit; that an ignored field changes nothing (R63, R65) is then a statement about the machine.

The `cmd…` constructors are the table's CMD8 rows: the command bytes the block emits to the DAC chip (R66, R67). -/
inductive Instr where
  -- requests, format REQ32 (30_encoding.md R61)
  | write     (chan : Nibble) (rsvd : Byte) (data : Half)
  | store     (chan : Nibble) (rsvd : Byte) (data : Half)
  | update    (chan : Nibble) (rsvd : Byte) (data : Half)
  | powerDown (chan : Nibble) (rsvd : Byte) (data : Half)
  | powerOff  (chan : Nibble) (rsvd : Byte) (data : Half)
  | intRef    (chan : Nibble) (rsvd : Byte) (data : Half)
  | extRef    (chan : Nibble) (rsvd : Byte) (data : Half)
  | setAddr   (chan : Nibble) (rsvd : Byte) (data : Half)
  | setRes    (chan : Nibble) (rsvd : Byte) (data : Half)
  | setRate   (chan : Nibble) (rsvd : Byte) (data : Half)
  -- reserved request words (R172); `rest` is bits 27:0
  | reserved0  (rest : BitVec 28)
  | reservedB  (rest : BitVec 28)
  | reservedCF (rop : Nibble) (rest : BitVec 28)
  -- command bytes, format CMD8 (R66, R67)
  | cmdWriteInput     (sel : Nibble)
  | cmdUpdate         (sel : Nibble)
  | cmdWriteUpdateAll (sel : Nibble)
  | cmdWriteUpdateOne (sel : Nibble)
  | cmdPowerDownOne   (sel : Nibble)
  | cmdPowerDownAll
  | cmdInternalRef
  | cmdExternalRef
  | cmdNoOp           (sel : Nibble)
  deriving DecidableEq, Repr

end Sys2Proof
end

