-- ==== Sys2Proof/WellFormed.lean ====
section
/-! DEFINITION. Which instruction terms stand for a row of the opcode table.
Every field is as wide as its bits, so the one check left is the ROP of the row "reserved ROP 0xC-0xF". -/

namespace Sys2Proof

/-- A well-formed instruction: the ROP of a `reservedCF` word is 0xC to 0xF (opcode_table.json, 30_encoding.md R61). -/
def Instr.wf : Instr → Bool
  | .write _ _ _ | .store _ _ _ | .update _ _ _ | .powerDown _ _ _ => true
  | .powerOff _ _ _ | .intRef _ _ _ | .extRef _ _ _ => true
  | .setAddr _ _ _ | .setRes _ _ _ | .setRate _ _ _ => true
  | .reserved0 _ | .reservedB _ => true
  | .reservedCF rop _ => decide (0xC#4 ≤ rop)
  | .cmdWriteInput _ | .cmdUpdate _ | .cmdWriteUpdateAll _ | .cmdWriteUpdateOne _ => true
  | .cmdPowerDownOne _ | .cmdPowerDownAll | .cmdInternalRef | .cmdExternalRef | .cmdNoOp _ => true

end Sys2Proof
end

