-- ==== Sys2Proof/Decode.lean ====
section
/-! DEFINITION. Decoding and encoding of request words (30_encoding.md R60, R61) and command bytes (R66 to R70). -/

namespace Sys2Proof

/-! ### The fields of a request word (R60) -/

/-- `ROP = w[31:28]`. -/
def reqRop (w : ReqWord) : Nibble := w.extractLsb' 28 4

/-- `CHAN = w[27:24]`. -/
def reqChan (w : ReqWord) : Nibble := w.extractLsb' 24 4

/-- `RSVD = w[23:16]`. -/
def reqRsvd (w : ReqWord) : Byte := w.extractLsb' 16 8

/-- `DATA = w[15:0]`. -/
def reqData (w : ReqWord) : Half := w.extractLsb' 0 16

/-- Bits 27:0 of a word, all that a reserved word holds beside its ROP. -/
def reqRest (w : ReqWord) : BitVec 28 := w.extractLsb' 0 28

/-- The request word `ROP ++ CHAN ++ RSVD ++ DATA` (R60). -/
def packReq (rop chan : Nibble) (rsvd : Byte) (data : Half) : ReqWord := rop ++ chan ++ rsvd ++ data

/-- A reserved request word: its ROP and its other 28 bits. -/
def packRest (rop : Nibble) (rest : BitVec 28) : ReqWord := rop ++ rest

/-- The instruction that a ROP selects, with the other fields of its word (R61, R74). Every ROP has one: a reserved
ROP is an instruction that answers ILLEGAL (R172). -/
def requestOf (rop chan : Nibble) (rsvd : Byte) (data : Half) (rest : BitVec 28) : Instr :=
  if rop = 0x0#4 then .reserved0 rest
  else if rop = 0x1#4 then .write chan rsvd data
  else if rop = 0x2#4 then .store chan rsvd data
  else if rop = 0x3#4 then .update chan rsvd data
  else if rop = 0x4#4 then .powerDown chan rsvd data
  else if rop = 0x5#4 then .powerOff chan rsvd data
  else if rop = 0x6#4 then .intRef chan rsvd data
  else if rop = 0x7#4 then .extRef chan rsvd data
  else if rop = 0x8#4 then .setAddr chan rsvd data
  else if rop = 0x9#4 then .setRes chan rsvd data
  else if rop = 0xA#4 then .setRate chan rsvd data
  else if rop = 0xB#4 then .reservedB rest
  else .reservedCF rop rest

/-- The instruction a request word selects: no 32-bit word is refused by the decoder (R61, R74). -/
def decodeRequest (w : ReqWord) : Instr := requestOf (reqRop w) (reqChan w) (reqRsvd w) (reqData w) (reqRest w)

/-! ### Command bytes (R66 to R70) -/

/-- Why a byte is no command byte of the table (R67, R69). -/
inductive DecodeError where
  /-- OPC 0x8 to 0xE: "the source defines none of them" (R69). -/
  | undefinedOpcode (opc : Nibble)
  /-- A byte 0x5?: PowerDownAll is never an OPC nibble (R69, R70). -/
  | packedPowerDownAll (sel : Nibble)
  /-- A byte 0x6? or 0x7? whose SEL is not the fixed Both = 0xF (R68). -/
  | referenceNotBoth (sel : Nibble)
  deriving DecidableEq, Repr

/-- `OPC = b[7:4]` (R66). -/
def cmdOpc (b : Byte) : Nibble := b.extractLsb' 4 4

/-- `SEL = b[3:0]` (R66). -/
def cmdSel (b : Byte) : Nibble := b.extractLsb' 0 4

/-- The packed command byte `OPC ++ SEL` (R66(a)). -/
def packCmd (opc sel : Nibble) : Byte := opc ++ sel

/-- The row of the table a command byte stands for, given the format of the frame it leads. "A decoder of command
bytes must match the fixed pattern 0x05 only on a one-byte frame" (R70). -/
def decodeCommand (f : FrameFormat) (b : Byte) : Except DecodeError Instr :=
  if f = .control ∧ b = 0x05#8 then .ok .cmdPowerDownAll
  else
    let sel := cmdSel b
    match (cmdOpc b).toNat with
    | 0x0 => .ok (.cmdWriteInput sel)
    | 0x1 => .ok (.cmdUpdate sel)
    | 0x2 => .ok (.cmdWriteUpdateAll sel)
    | 0x3 => .ok (.cmdWriteUpdateOne sel)
    | 0x4 => .ok (.cmdPowerDownOne sel)
    | 0x5 => .error (.packedPowerDownAll sel)
    | 0x6 => if sel = 0xF#4 then .ok .cmdInternalRef else .error (.referenceNotBoth sel)
    | 0x7 => if sel = 0xF#4 then .ok .cmdExternalRef else .error (.referenceNotBoth sel)
    | 0xF => .ok (.cmdNoOp sel)
    | _ => .error (.undefinedOpcode (cmdOpc b))

/-- The frame monitor of R70 and R72 (a test bench, not the block): which command a whole frame carries. The
transaction boundary gives the frame's length; a frame of another length than 1 or 3 is none of the block's (R44). -/
def decodeFrame : List Byte → Option Instr
  | [c] => (decodeCommand .control c).toOption
  | [c, _, _] => (decodeCommand .data c).toOption
  | _ => none

/-! ### Encoded forms -/

/-- What an instruction looks like outside: a request word, or a command byte with the format of its frame. -/
inductive Encoded where
  | req (w : ReqWord)
  | cmd (f : FrameFormat) (b : Byte)
  deriving DecidableEq, Repr

/-- Decoding, total on both encodings. -/
def decode : Encoded → Except DecodeError Instr
  | .req w => .ok (decodeRequest w)
  | .cmd f b => decodeCommand f b

/-- The encoder, from the tables of R61 and R67. The two command bytes the block never emits (WriteUpdateAll, NoOp;
R69) belong to no frame of the spec: they are written with the control format (DESIGN CHOICE, log entry 9). -/
def encode : Instr → Encoded
  | .write chan rsvd data => .req (packReq 0x1#4 chan rsvd data)
  | .store chan rsvd data => .req (packReq 0x2#4 chan rsvd data)
  | .update chan rsvd data => .req (packReq 0x3#4 chan rsvd data)
  | .powerDown chan rsvd data => .req (packReq 0x4#4 chan rsvd data)
  | .powerOff chan rsvd data => .req (packReq 0x5#4 chan rsvd data)
  | .intRef chan rsvd data => .req (packReq 0x6#4 chan rsvd data)
  | .extRef chan rsvd data => .req (packReq 0x7#4 chan rsvd data)
  | .setAddr chan rsvd data => .req (packReq 0x8#4 chan rsvd data)
  | .setRes chan rsvd data => .req (packReq 0x9#4 chan rsvd data)
  | .setRate chan rsvd data => .req (packReq 0xA#4 chan rsvd data)
  | .reserved0 rest => .req (packRest 0x0#4 rest)
  | .reservedB rest => .req (packRest 0xB#4 rest)
  | .reservedCF rop rest => .req (packRest rop rest)
  | .cmdWriteInput sel => .cmd .data (packCmd 0x0#4 sel)
  | .cmdUpdate sel => .cmd .control (packCmd 0x1#4 sel)
  | .cmdWriteUpdateAll sel => .cmd .control (packCmd 0x2#4 sel)
  | .cmdWriteUpdateOne sel => .cmd .data (packCmd 0x3#4 sel)
  | .cmdPowerDownOne sel => .cmd .control (packCmd 0x4#4 sel)
  | .cmdPowerDownAll => .cmd .control 0x05#8
  | .cmdInternalRef => .cmd .control (packCmd 0x6#4 0xF#4)
  | .cmdExternalRef => .cmd .control (packCmd 0x7#4 0xF#4)
  | .cmdNoOp sel => .cmd .control (packCmd 0xF#4 sel)

/-- An instruction given as bits, numbered as spec/opcode_table.json numbers them. Eight bits are one command byte,
hence a one-byte frame (R70); up to 32 bits are a request word, the missing upper bits 0 (log entry 22). -/
def encodedOfBits (nbits w : Nat) : Option Encoded :=
  if nbits = 8 then some (.cmd .control (BitVec.ofNat 8 w))
  else if nbits ≤ 32 then some (.req (BitVec.ofNat 32 w))
  else none

/-- The instruction the decoder reads from a word of the opcode table. -/
def decodeTableWord (nbits w : Nat) : Option Instr :=
  match encodedOfBits nbits w with
  | some e => (decode e).toOption
  | none => none

/-! ### The opcode table's rows -/

/-- A row of spec/opcode_table.json: its width in bits, its mask and its match. -/
structure TableRow where
  nbits : Nat
  mask  : Nat
  value : Nat
  deriving DecidableEq, Repr

/-- The row of each constructor, copied from spec/opcode_table.json. -/
def tableRow : Instr → TableRow
  | .write _ _ _ => ⟨32, 0xF0000000, 0x10000000⟩
  | .store _ _ _ => ⟨32, 0xF0000000, 0x20000000⟩
  | .update _ _ _ => ⟨32, 0xF0000000, 0x30000000⟩
  | .powerDown _ _ _ => ⟨32, 0xF0000000, 0x40000000⟩
  | .powerOff _ _ _ => ⟨32, 0xF0000000, 0x50000000⟩
  | .intRef _ _ _ => ⟨32, 0xF0000000, 0x60000000⟩
  | .extRef _ _ _ => ⟨32, 0xF0000000, 0x70000000⟩
  | .setAddr _ _ _ => ⟨32, 0xF0000000, 0x80000000⟩
  | .setRes _ _ _ => ⟨32, 0xF0000000, 0x90000000⟩
  | .setRate _ _ _ => ⟨32, 0xF0000000, 0xA0000000⟩
  | .reserved0 _ => ⟨32, 0xF0000000, 0x00000000⟩
  | .reservedB _ => ⟨32, 0xF0000000, 0xB0000000⟩
  | .reservedCF _ _ => ⟨32, 0xC0000000, 0xC0000000⟩
  | .cmdWriteInput _ => ⟨8, 0xF0, 0x00⟩
  | .cmdUpdate _ => ⟨8, 0xF0, 0x10⟩
  | .cmdWriteUpdateAll _ => ⟨8, 0xF0, 0x20⟩
  | .cmdWriteUpdateOne _ => ⟨8, 0xF0, 0x30⟩
  | .cmdPowerDownOne _ => ⟨8, 0xF0, 0x40⟩
  | .cmdPowerDownAll => ⟨8, 0xFF, 0x05⟩
  | .cmdInternalRef => ⟨8, 0xFF, 0x6F⟩
  | .cmdExternalRef => ⟨8, 0xFF, 0x7F⟩
  | .cmdNoOp _ => ⟨8, 0xF0, 0xF0⟩

/-- The bits of an encoded form and their number. -/
def Encoded.bits : Encoded → Nat × Nat
  | .req w => (32, w.toNat)
  | .cmd _ b => (8, b.toNat)

/-- An encoded form lies in a row: same width, and the row's masked bits have the row's value. -/
def TableRow.holds (r : TableRow) (e : Encoded) : Bool :=
  e.bits.1 == r.nbits && (e.bits.2 &&& r.mask) == r.value

end Sys2Proof
end

