-- ==== Sys2Proof/Machine/State.lean ====
section
/-! DEFINITION. Everything the spec gives the machine, as plain data: the block's state (10_state.md R35), the ports'
signals (R27, R28), the Transport's answer (R32), the observed trace (R34), and the outside world's coming moves. -/

namespace Sys2Proof.Machine

open Sys2Proof

/-- `Res = {8, 10, 12}`, the resolution in bits (10_state.md R24). No rule reads its bits (decision D24). -/
inductive Res where
  | r8 | r10 | r12
  deriving DecidableEq, Repr

/-- `Rate = {K100, K400}`, the bus clock rate (10_state.md R25). -/
inductive Rate where
  | k100 | k400
  deriving DecidableEq, Repr

/-- A transaction: the triple `TXN` holds, and the `Txn` event records (10_state.md R26, R34). -/
structure Txn where
  addr  : BusAddr
  rate  : Rate
  frame : List Byte
  deriving DecidableEq, Repr

/-- A response (30_encoding.md R80). Only XFER carries a status: in another response "`ts` is written `-` and has no
value a model may read" (10_state.md R27), so none exists here. -/
inductive Response where
  | done
  | xfer (ts : TStatus)
  | illegal
  deriving DecidableEq, Repr

/-- The observable events (10_state.md R34). -/
inductive Event where
  | txn (t : Txn)
  | rsp (r : Response)
  deriving DecidableEq, Repr

/-- The transport port's primitives as the block calls them (00_scope.md R12). -/
inductive Prim where
  | tBegin (addr : BusAddr) (rate : Rate)
  | tSend (b : Byte)
  | tEnd
  deriving DecidableEq, Repr

/-- A transaction that a reset abandoned (70_reset_and_hazards.md R191). -/
structure Abandoned where
  txn      : Txn
  /-- The prefix of the frame that reached the chip: a free value (R191, 93 U8), drawn by the turn `reset`. -/
  reached  : List Byte
  /-- The Transport has returned its status for it, which the block ignores (R191). -/
  answered : Bool
  deriving DecidableEq, Repr

/-- One move of an agent (00_scope.md R17) or of the outside world. DESIGN CHOICE, log entry 1. -/
inductive Turn where
  /-- The Block takes its enabled step, if it has one (R30, R31). -/
  | block
  /-- The Requester drives `REQ_VALID = 1` and `REQ_WORD = w` (R27). -/
  | present (w : ReqWord)
  /-- The Requester drives `REQ_VALID = 0` (R27). -/
  | withdraw
  /-- TDONE for the transaction in flight: the Transport returns a status of its own free choice (R32). -/
  | tdone (ts : TStatus)
  /-- TDONE for the `k`-th abandoned transaction (R32, R191). -/
  | late (k : Nat) (ts : TStatus)
  /-- Reset (R190, R191). FREE VALUE: `reached` is how many bytes of the frame in flight reached the chip, a draw of
  its own for each reset, since "every prefix of the frame, the empty one included, may have reached it" (R191, 93 U8).
  That the draw stands in the turn is a DESIGN CHOICE, log entry 6. -/
  | reset (reached : Nat)
  /-- A second requester calls the block around the request port (20_memory.md R55). -/
  | bypass (w : ReqWord)
  /-- A command byte, leading a frame of format `f`, is run by the DAC chip (30_encoding.md R67). -/
  | atChip (f : FrameFormat) (b : Byte)
  deriving DecidableEq, Repr

/-- The machine's state. -/
structure State where
  /-- `CFG_ADDR` (R23) -/
  cfgAddr   : BusAddr
  /-- `CFG_RES` (R24) -/
  cfgRes    : Res
  /-- `CFG_RATE` (R25) -/
  cfgRate   : Rate
  /-- `BUSY` (R26) -/
  busy      : Bool
  /-- `TXN` (R26) -/
  txn       : Option Txn
  /-- `REQ_VALID` (R27) -/
  reqValid  : Bool
  /-- `REQ_WORD` (R27) -/
  reqWord   : ReqWord
  /-- The status the Transport has returned for the transaction in `TXN` and the block has not yet taken (R31, R32) -/
  tret      : Option TStatus
  /-- The events so far, oldest first (R34); its `rsp` events are what the response port delivered (R27) -/
  trace     : List Event
  /-- The transport port's primitives so far, oldest first (R28, R48); log entry 10 -/
  port      : List Prim
  /-- The transactions abandoned by resets, oldest first (R191) -/
  abandoned : List Abandoned
  /-- The coming moves, next first; the model's own field, log entry 1 -/
  turns     : List Turn
  deriving DecidableEq, Repr

/-- The machine's faults. -/
inductive Fault where
  /-- Raised by `step` on a turn `bypass`: a call around the request port, which a model "must treat … as a fault"
  (20_memory.md R55, 93 U1). Safe: the spec gives such a call no meaning. -/
  | portBypassed
  deriving DecidableEq, Repr

/-- The machine's refusals. -/
inductive Refusal where
  /-- An instruction without a meaning yet, raised by an arm of `exec`. Safe: the machine stops. -/
  | notModelled (mnemonic : String)
  /-- Raised by the meanings of the command bytes the block emits, when one is to be run: what the chip does with a
  command is "not part of the block" (00_scope.md R6, also R17 and 10_state.md R34), and its treatment is `refuse`
  (93 U13). Safe: the machine stops. -/
  | chipNotModelled
  /-- Raised by the meanings of WriteUpdateAll and NoOp: never emitted, and their meaning is `refuse` (93 U12,
  30_encoding.md R69). Safe: the machine stops. -/
  | neverEmitted
  /-- Raised by `step` on a turn `atChip` whose byte is no row of the table (30_encoding.md R69). Safe: it stops. -/
  | undefinedCommandByte (e : DecodeError)
  deriving DecidableEq, Repr

/-- The state after reset: `(0x73, 12, K100, 0, none)` (70_reset_and_hazards.md R190). What other agents drive or
hold has no reset value in the spec: nothing presented, nothing returned, nothing recorded (log entry 13). -/
def State.reset : State where
  cfgAddr   := 0x73#7
  cfgRes    := .r12
  cfgRate   := .k100
  busy      := false
  txn       := none
  reqValid  := false
  reqWord   := 0#32
  tret      := none
  trace     := []
  port      := []
  abandoned := []
  turns     := []

end Sys2Proof.Machine
end

