-- ==== Sys2Proof/Machine/Flags.lean ====
section
/-! DEFINITION. The status indications. The block has no flags or condition codes (10_state.md R22); the only status a
request gives is its response (30_encoding.md R80), and the only status signal is `REQ_READY` (10_state.md R27). -/

namespace Sys2Proof.Machine

open Sys2Proof

/-- `RSP_KIND`, 2 bits: DONE 0b00, XFER 0b01, ILLEGAL 0b10; 0b11 is never given (R80). -/
def Response.kind : Response → BitVec 2
  | .done => 0b00#2
  | .xfer _ => 0b01#2
  | .illegal => 0b10#2

/-- `RSP_TSTATUS`, which has a value only in XFER (R80). -/
def Response.tstatus : Response → Option TStatus
  | .xfer ts => some ts
  | .done => none
  | .illegal => none

/-- `REQ_READY = NOT BUSY` (R27). -/
def State.reqReady (s : State) : Bool := !s.busy

/-- The response an event delivered, if it is one. -/
def Event.response : Event → Option Response
  | .rsp r => some r
  | .txn _ => none

/-- The transaction an event recorded, if it is one. -/
def Event.transaction : Event → Option Txn
  | .txn t => some t
  | .rsp _ => none

/-- What the response port has delivered, oldest first (R27). -/
def State.responses (s : State) : List Response := s.trace.filterMap Event.response

/-- The transactions handed to the transport, oldest first (R34). -/
def State.transactions (s : State) : List Txn := s.trace.filterMap Event.transaction

end Sys2Proof.Machine
end

