-- ==== Sys2Proof/Machine/Operands.lean ====
section
/-! DEFINITION. Operand forms and the datapath: the values a request's fields stand for (30_encoding.md R62, R64), the
legal sets of the setters (43_configuration.md), and ENC, SCALE, CMDSEL and FRAME (40_datapath.md). -/

namespace Sys2Proof.Machine

open Sys2Proof

/-! ### Channels (R62, R76) -/

/-- Channel A = 0x0. -/
def chanA : Nibble := 0x0#4
/-- Channel B = 0x1. -/
def chanB : Nibble := 0x1#4
/-- Both channels = 0xF. -/
def chanBoth : Nibble := 0xF#4

/-! ### Configuration values -/

/-- The resolution as a number of bits (R24). -/
def Res.bits : Res → Nat
  | .r8 => 8
  | .r10 => 10
  | .r12 => 12

/-- The bit encoding of the rate: 0 = K100, 1 = K400 (R25). -/
def Rate.toBit : Rate → BitVec 1
  | .k100 => 0#1
  | .k400 => 1#1

/-- The device addresses GND, NC, VCC and GLOBAL (R23, R76). -/
def addrGnd : BusAddr := 0x10#7
def addrNc : BusAddr := 0x11#7
def addrVcc : BusAddr := 0x12#7
def addrGlobal : BusAddr := 0x73#7

/-- The four legal device addresses (R23). -/
def legalAddrs : List BusAddr := [addrGnd, addrNc, addrVcc, addrGlobal]

/-- What SET_ADDR stores: the whole 16-bit operand is compared with the legal set, and 0x73 is substituted for any
other value (R150, R151, R173). -/
def addrOf (data : Half) : BusAddr :=
  if data = 0x0010#16 ∨ data = 0x0011#16 ∨ data = 0x0012#16 ∨ data = 0x0073#16 then data.setWidth 7
  else addrGlobal

/-- What SET_RES stores: 8, 10 or 12, and 12 for any other value (R153, R154, R173). -/
def resOf (data : Half) : Res :=
  if data = 8#16 then .r8
  else if data = 10#16 then .r10
  else .r12

/-- What SET_RATE stores: K400 for 400, and K100 for any other value (R156). -/
def rateOf (data : Half) : Rate :=
  if data = 400#16 then .k400 else .k100

/-! ### The datapath -/

/-- `ENC(op, ch) = op ++ ch` (R100). -/
def enc (op ch : Nibble) : Byte := op ++ ch

/-- The largest code of a resolution, `2^res − 1` (R104). -/
def maxCode (res : Res) : Nat := 2 ^ res.bits - 1

/-- SCALE's step 1: the clamp (R104, R105). -/
def clamp (code : Half) (res : Res) : Nat := min code.toNat (maxCode res)

/-- SCALE's step 2: the 16-bit register value, left-justified, modulo 2^16 (R104). -/
def justify (code : Half) (res : Res) : Half := BitVec.ofNat 16 (clamp code res <<< (16 - res.bits))

/-- `SCALE(code, res) = (v[15:8], v[7:0])` (R104). -/
def scale (code : Half) (res : Res) : Byte × Byte :=
  ((justify code res).extractLsb' 8 8, (justify code res).extractLsb' 0 8)

/-- The fixed byte of POWER_OFF, which does not pass through ENC (R102). -/
def powerOffByte : Byte := 0x05#8

/-- `CMDSEL(rop, ch)`, the command byte of a frame operation (R110). -/
def cmdsel : FrameOp → Nibble → Byte
  | .write, ch => enc 0x3#4 ch
  | .store, ch => enc 0x0#4 ch
  | .update, ch => enc 0x1#4 ch
  | .powerDown, ch => enc 0x4#4 ch
  | .powerOff, _ => powerOffByte
  | .intRef, _ => enc 0x6#4 chanBoth
  | .extRef, _ => enc 0x7#4 chanBoth

/-- The frame format of an operation, fixed by its ROP (R71, R72). -/
def formatOf : FrameOp → FrameFormat
  | .write | .store => .data
  | .update | .powerDown | .powerOff | .intRef | .extRef => .control

/-- `FRAME(rop, ch, code, res)` (R112). -/
def frame (op : FrameOp) (ch : Nibble) (code : Half) (res : Res) : List Byte :=
  match formatOf op with
  | .data => [cmdsel op ch, (scale code res).1, (scale code res).2]
  | .control => [cmdsel op ch]

/-! ### Requests and their command rows -/

/-- The frame operation, channel and code of a frame request (R61); none for a setter or a reserved word. -/
def frameRequest : Instr → Option (FrameOp × Nibble × Half)
  | .write chan _ data => some (.write, chan, data)
  | .store chan _ data => some (.store, chan, data)
  | .update chan _ data => some (.update, chan, data)
  | .powerDown chan _ data => some (.powerDown, chan, data)
  | .powerOff chan _ data => some (.powerOff, chan, data)
  | .intRef chan _ data => some (.intRef, chan, data)
  | .extRef chan _ data => some (.extRef, chan, data)
  | .setAddr _ _ _ | .setRes _ _ _ | .setRate _ _ _ => none
  | .reserved0 _ | .reservedB _ | .reservedCF _ _ => none
  | .cmdWriteInput _ | .cmdUpdate _ | .cmdWriteUpdateAll _ | .cmdWriteUpdateOne _ => none
  | .cmdPowerDownOne _ | .cmdPowerDownAll | .cmdInternalRef | .cmdExternalRef | .cmdNoOp _ => none

/-- The CMD8 row that R67's column "emitted by" gives for each frame operation. -/
def emittedCommand : FrameOp → Nibble → Instr
  | .write, ch => .cmdWriteUpdateOne ch
  | .store, ch => .cmdWriteInput ch
  | .update, ch => .cmdUpdate ch
  | .powerDown, ch => .cmdPowerDownOne ch
  | .powerOff, _ => .cmdPowerDownAll
  | .intRef, _ => .cmdInternalRef
  | .extRef, _ => .cmdExternalRef

/-- A request, as against a command byte of the chip (the table's format REQ32). -/
def isRequest : Instr → Bool
  | .write _ _ _ | .store _ _ _ | .update _ _ _ | .powerDown _ _ _ => true
  | .powerOff _ _ _ | .intRef _ _ _ | .extRef _ _ _ => true
  | .setAddr _ _ _ | .setRes _ _ _ | .setRate _ _ _ => true
  | .reserved0 _ | .reservedB _ | .reservedCF _ _ => true
  | .cmdWriteInput _ | .cmdUpdate _ | .cmdWriteUpdateAll _ | .cmdWriteUpdateOne _ => false
  | .cmdPowerDownOne _ | .cmdPowerDownAll | .cmdInternalRef | .cmdExternalRef | .cmdNoOp _ => false

end Sys2Proof.Machine
end

