-- ==== Sys2Proof/Machine/Ops.lean ====
section
/-! DEFINITION. The named operations on the state: the transport's primitives, `respond`, the shared body of ACCEPT,
COMPLETE, TDONE, and reset.

The block has no memory (10_state.md R33), so there is no memory operation. It raises no exception and takes no trap
(60_exceptions.md R170, R178, R179), so there is no exception entry and no return. -/

namespace Sys2Proof.Machine

open Sys2Proof

/-! ### Ports (00_scope.md R12) -/

/-- `TBegin(addr, rate)`. -/
def tBegin (addr : BusAddr) (rate : Rate) (s : State) : State := { s with port := s.port ++ [.tBegin addr rate] }

/-- `TSend(b)`. -/
def tSend (b : Byte) (s : State) : State := { s with port := s.port ++ [.tSend b] }

/-- `TEnd()`; the status it yields comes later, by TDONE (10_state.md R32). -/
def tEnd (s : State) : State := { s with port := s.port ++ [.tEnd] }

/-- `for b in f, in order: TSend(b)` (10_state.md R30). -/
def tSendAll : List Byte → State → State
  | [], s => s
  | b :: f, s => tSendAll f (tSend b s)

/-- Append an event to the trace (10_state.md R34). -/
def record (e : Event) (s : State) : State := { s with trace := s.trace ++ [e] }

/-- `respond(kind, ts)`: deliver one response (10_state.md R27). The port never stalls (decision D26, log entry 17). -/
def respond (r : Response) (s : State) : State := record (.rsp r) s

/-! ### ACCEPT (10_state.md R30) -/

/-- The gate of ACCEPT: a request is accepted only when `BUSY = 0`; until then it waits, unaccepted, and nothing
changes (R27, R195). An accepted word is taken from the port (log entry 2). -/
def accept (body : State → State) (s : State) : Host.Outcome State Fault Refusal :=
  if s.busy then .next s else .next (body { s with reqValid := false })

/-- The shared body of the frame operations: take the transaction in flight, for which no status has been returned
yet (R32), and hand the whole frame over, with the address and the rate the block holds now (R30). -/
def launch (f : List Byte) (s : State) : State :=
  let t : Txn := ⟨s.cfgAddr, s.cfgRate, f⟩
  let s := { s with txn := some t, busy := true, tret := none }
  let s := tEnd (tSendAll t.frame (tBegin t.addr t.rate s))
  record (.txn t) s

/-- ACCEPT of a frame operation (R30): the frame is computed from the register values at acceptance. -/
def acceptFrame (op : FrameOp) (chan : Nibble) (code : Half) (s : State) : Host.Outcome State Fault Refusal :=
  accept (fun s => launch (frame op chan code s.cfgRes) s) s

/-- `CFG_ADDR <- a` (R150). -/
def writeAddr (a : BusAddr) (s : State) : State := { s with cfgAddr := a }

/-- `CFG_RES <- r` (R153). -/
def writeRes (r : Res) (s : State) : State := { s with cfgRes := r }

/-- `CFG_RATE <- r` (R156). -/
def writeRate (r : Rate) (s : State) : State := { s with cfgRate := r }

/-- ACCEPT of a setter (R30): write the register and answer DONE. -/
def acceptSetter (write : State → State) (s : State) : Host.Outcome State Fault Refusal :=
  accept (fun s => respond .done (write s)) s

/-- ACCEPT of a reserved word (R172): answer ILLEGAL and change nothing else. -/
def acceptIllegal (s : State) : Host.Outcome State Fault Refusal :=
  accept (fun s => respond .illegal s) s

/-! ### COMPLETE, TDONE and reset -/

/-- COMPLETE (10_state.md R31): forward the status unmodified and become ready. -/
def complete (ts : TStatus) (s : State) : State :=
  respond (.xfer ts) { s with busy := false, txn := none, tret := none }

/-- TDONE (10_state.md R32): enabled while a transaction is in flight with no status returned for it. A turn whose
step is not enabled passes without effect (log entry 4). -/
def tdone (ts : TStatus) (s : State) : State :=
  if s.busy ∧ s.tret = none then { s with tret := some ts } else s

/-- TDONE for an abandoned transaction: the block ignores the status (70_reset_and_hazards.md R191). -/
def tdoneLate (k : Nat) (_ts : TStatus) (s : State) : State :=
  match s.abandoned[k]? with
  | some a => { s with abandoned := s.abandoned.set k { a with answered := true } }
  | none => s

/-- What a reset makes of the transaction in flight: it is abandoned, and any prefix of its frame may have reached
the chip (R191). `reached` is the free draw of that prefix's length (93 U8); a draw longer than the frame gives the whole
frame (DESIGN CHOICE, log entry 6). A status already returned but not yet taken is not awaited again. -/
def abandon (reached : Nat) (s : State) : List Abandoned :=
  match s.txn with
  | some t => s.abandoned ++ [⟨t, t.frame.take reached, s.tret.isSome⟩]
  | none => s.abandoned

/-- Reset (R190, R191): the block's registers take their reset values; the trace and the port's past stay, and what
the Requester drives is the Requester's (log entry 11). -/
def resetAct (reached : Nat) (s : State) : State :=
  { s with
    cfgAddr := State.reset.cfgAddr
    cfgRes := State.reset.cfgRes
    cfgRate := State.reset.cfgRate
    busy := State.reset.busy
    txn := State.reset.txn
    tret := none
    abandoned := abandon reached s }

end Sys2Proof.Machine
end

