-- ==== Sys2Proof/Machine/ChipCommands.lean ====
section
/-! DEFINITION. The table's CMD8 rows as instructions. A command byte is what the block emits (30_encoding.md R66,
R67); how each one is emitted is in Operands.lean (`cmdsel`, `emittedCommand`). To run one is the DAC chip's part, and
the spec puts that out of scope: "Its registers, its analog output, and how it interprets frames are not part of the
block" (00_scope.md R6); "The DAC chip is not an agent of the model" (R17); "The state of the DAC chip is not observable
in the model" (10_state.md R34). The table of 93 names the treatment: `refuse`, "no meaning is given, so claims that need
it are unprovable" (U12, U13). -/

namespace Sys2Proof.Machine

open Sys2Proof

/-- WriteInput, emitted by STORE (R67). -/
def execCmdWriteInput (_sel : Nibble) (_s : State) : Host.Outcome State Fault Refusal := .refused .chipNotModelled

/-- Update, emitted by UPDATE (R67). -/
def execCmdUpdate (_sel : Nibble) (_s : State) : Host.Outcome State Fault Refusal := .refused .chipNotModelled

/-- WriteUpdateAll, never emitted (R69). -/
def execCmdWriteUpdateAll (_sel : Nibble) (_s : State) : Host.Outcome State Fault Refusal := .refused .neverEmitted

/-- WriteUpdateOne, emitted by WRITE (R67). -/
def execCmdWriteUpdateOne (_sel : Nibble) (_s : State) : Host.Outcome State Fault Refusal :=
  .refused .chipNotModelled

/-- PowerDownOne, emitted by POWER_DOWN (R67). -/
def execCmdPowerDownOne (_sel : Nibble) (_s : State) : Host.Outcome State Fault Refusal := .refused .chipNotModelled

/-- PowerDownAll, the fixed byte of POWER_OFF (R70). -/
def execCmdPowerDownAll (_s : State) : Host.Outcome State Fault Refusal := .refused .chipNotModelled

/-- InternalRef, emitted by INT_REF (R67). -/
def execCmdInternalRef (_s : State) : Host.Outcome State Fault Refusal := .refused .chipNotModelled

/-- ExternalRef, emitted by EXT_REF (R67). -/
def execCmdExternalRef (_s : State) : Host.Outcome State Fault Refusal := .refused .chipNotModelled

/-- NoOp, never emitted (R69). -/
def execCmdNoOp (_sel : Nibble) (_s : State) : Host.Outcome State Fault Refusal := .refused .neverEmitted

end Sys2Proof.Machine
end

