-- ==== Sys2Proof/Machine/ConfigOps.lean ====
section
/-! DEFINITION. The setters (43_configuration.md): no transaction, response DONE, an illegal value silently replaced by
the register's default (R173). CHAN and RSVD are ignored. -/

namespace Sys2Proof.Machine

open Sys2Proof

/-- SET_ADDR (R150). -/
def execSetAddr (_chan : Nibble) (_rsvd : Byte) (data : Half) (s : State) : Host.Outcome State Fault Refusal :=
  acceptSetter (writeAddr (addrOf data)) s

/-- SET_RES (R153). -/
def execSetRes (_chan : Nibble) (_rsvd : Byte) (data : Half) (s : State) : Host.Outcome State Fault Refusal :=
  acceptSetter (writeRes (resOf data)) s

/-- SET_RATE (R156). -/
def execSetRate (_chan : Nibble) (_rsvd : Byte) (data : Half) (s : State) : Host.Outcome State Fault Refusal :=
  acceptSetter (writeRate (rateOf data)) s

end Sys2Proof.Machine
end

