-- ==== Sys2Proof/Machine/ControlOps.lean ====
section
/-! DEFINITION. The control-only operations (42_control_operations.md). Their frame is `[cmd]`; DATA and RSVD are
ignored by all five, and CHAN by the last three (R65). -/

namespace Sys2Proof.Machine

open Sys2Proof

/-- UPDATE (R130): frame `[ENC(0x1, ch)]`. -/
def execUpdate (chan : Nibble) (_rsvd : Byte) (data : Half) (s : State) : Host.Outcome State Fault Refusal :=
  acceptFrame .update chan data s

/-- POWER_DOWN (R131): frame `[ENC(0x4, ch)]`. The block's configuration is unchanged (R185). -/
def execPowerDown (chan : Nibble) (_rsvd : Byte) (data : Half) (s : State) : Host.Outcome State Fault Refusal :=
  acceptFrame .powerDown chan data s

/-- POWER_OFF (R132): frame `[0x05]`, for every operand. -/
def execPowerOff (chan : Nibble) (_rsvd : Byte) (data : Half) (s : State) : Host.Outcome State Fault Refusal :=
  acceptFrame .powerOff chan data s

/-- INT_REF (R133): frame `[0x6F]`, for every operand. -/
def execIntRef (chan : Nibble) (_rsvd : Byte) (data : Half) (s : State) : Host.Outcome State Fault Refusal :=
  acceptFrame .intRef chan data s

/-- EXT_REF (R134): frame `[0x7F]`, for every operand. -/
def execExtRef (chan : Nibble) (_rsvd : Byte) (data : Half) (s : State) : Host.Outcome State Fault Refusal :=
  acceptFrame .extRef chan data s

end Sys2Proof.Machine
end

