-- ==== Sys2Proof/Machine/DataOps.lean ====
section
/-! DEFINITION. The data-bearing operations WRITE and STORE (41_data_operations.md). Their frame is `[cmd, hi, lo]`. -/

namespace Sys2Proof.Machine

open Sys2Proof

/-- WRITE (R120): frame `[ENC(0x3, ch), hi, lo]`. RSVD is ignored. -/
def execWrite (chan : Nibble) (_rsvd : Byte) (data : Half) (s : State) : Host.Outcome State Fault Refusal :=
  acceptFrame .write chan data s

/-- STORE (R121): frame `[ENC(0x0, ch), hi, lo]`. RSVD is ignored. -/
def execStore (chan : Nibble) (_rsvd : Byte) (data : Half) (s : State) : Host.Outcome State Fault Refusal :=
  acceptFrame .store chan data s

end Sys2Proof.Machine
end

