-- ==== Sys2Proof/Machine/ReservedOps.lean ====
section
/-! DEFINITION. The reserved request words (60_exceptions.md R172): response ILLEGAL, nothing else. -/

namespace Sys2Proof.Machine

open Sys2Proof

/-- ROP 0x0 (R172). -/
def execReserved0 (_rest : BitVec 28) (s : State) : Host.Outcome State Fault Refusal := acceptIllegal s

/-- ROP 0xB (R172). -/
def execReservedB (_rest : BitVec 28) (s : State) : Host.Outcome State Fault Refusal := acceptIllegal s

/-- ROP 0xC to 0xF (R172). -/
def execReservedCF (_rop : Nibble) (_rest : BitVec 28) (s : State) : Host.Outcome State Fault Refusal :=
  acceptIllegal s

end Sys2Proof.Machine
end

