-- ==== Sys2Proof/Machine/Dispatch.lean ====
section
/-! DEFINITION. The meaning of each instruction, one arm per constructor. -/

namespace Sys2Proof.Machine

def exec (i : Instr) (s : State) : Host.Outcome State Fault Refusal :=
  match i with
  | .write chan rsvd data => Sys2Proof.Machine.execWrite chan rsvd data s
  | .store chan rsvd data => Sys2Proof.Machine.execStore chan rsvd data s
  | .update chan rsvd data => Sys2Proof.Machine.execUpdate chan rsvd data s
  | .powerDown chan rsvd data => Sys2Proof.Machine.execPowerDown chan rsvd data s
  | .powerOff chan rsvd data => Sys2Proof.Machine.execPowerOff chan rsvd data s
  | .intRef chan rsvd data => Sys2Proof.Machine.execIntRef chan rsvd data s
  | .extRef chan rsvd data => Sys2Proof.Machine.execExtRef chan rsvd data s
  | .setAddr chan rsvd data => Sys2Proof.Machine.execSetAddr chan rsvd data s
  | .setRes chan rsvd data => Sys2Proof.Machine.execSetRes chan rsvd data s
  | .setRate chan rsvd data => Sys2Proof.Machine.execSetRate chan rsvd data s
  | .reserved0 rest => Sys2Proof.Machine.execReserved0 rest s
  | .reservedB rest => Sys2Proof.Machine.execReservedB rest s
  | .reservedCF rop rest => Sys2Proof.Machine.execReservedCF rop rest s
  -- the chip's command bytes
  | .cmdWriteInput sel => Sys2Proof.Machine.execCmdWriteInput sel s
  | .cmdUpdate sel => Sys2Proof.Machine.execCmdUpdate sel s
  | .cmdWriteUpdateAll sel => Sys2Proof.Machine.execCmdWriteUpdateAll sel s
  | .cmdWriteUpdateOne sel => Sys2Proof.Machine.execCmdWriteUpdateOne sel s
  | .cmdPowerDownOne sel => Sys2Proof.Machine.execCmdPowerDownOne sel s
  | .cmdPowerDownAll => Sys2Proof.Machine.execCmdPowerDownAll s
  | .cmdInternalRef => Sys2Proof.Machine.execCmdInternalRef s
  | .cmdExternalRef => Sys2Proof.Machine.execCmdExternalRef s
  | .cmdNoOp sel => Sys2Proof.Machine.execCmdNoOp sel s

end Sys2Proof.Machine
end

