-- ==== Sys2Proof/Machine/Agents.lean ====
section
/-! DEFINITION. What each agent of 00_scope.md R17 does when it moves. Step.lean only takes the next turn and calls
these. -/

namespace Sys2Proof.Machine

open Sys2Proof

/-- The Block's move: COMPLETE when `BUSY = 1` and a status has been returned (10_state.md R31); ACCEPT when
`BUSY = 0` and `REQ_VALID = 1` (R30); otherwise no step of the block is enabled and it waits, which is the hang the
model must admit (R31, R202; log entry 3). -/
def blockStep (s : State) : Host.Outcome State Fault Refusal :=
  if s.busy then
    match s.tret with
    | some ts => .next (complete ts s)
    | none => .next s
  else if s.reqValid then exec (decodeRequest s.reqWord) s
  else .next s

/-- The Requester drives a word onto the request port (R27). -/
def presentWord (w : ReqWord) (s : State) : State := { s with reqValid := true, reqWord := w }

/-- The Requester takes `REQ_VALID` down (R27). -/
def withdrawWord (s : State) : State := { s with reqValid := false }

/-- A call around the request port has no meaning and is a fault (20_memory.md R55, 93 U1). -/
def bypassPort (_w : ReqWord) (_s : State) : Host.Outcome State Fault Refusal := .fault .portBypassed

/-- The chip runs a command byte that leads a frame of format `f`. -/
def chipStep (f : FrameFormat) (b : Byte) (s : State) : Host.Outcome State Fault Refusal :=
  match decodeCommand f b with
  | .ok i => exec i s
  | .error e => .refused (.undefinedCommandByte e)

/-- The move of one turn. -/
def takeTurn (t : Turn) (s : State) : Host.Outcome State Fault Refusal :=
  match t with
  | .block => blockStep s
  | .present w => .next (presentWord w s)
  | .withdraw => .next (withdrawWord s)
  | .tdone ts => .next (tdone ts s)
  | .late k ts => .next (tdoneLate k ts s)
  | .reset reached => .next (resetAct reached s)
  | .bypass w => bypassPort w s
  | .atChip f b => chipStep f b s

/-- The state in which an instruction given in its encoded form is what runs next: a request word stands at the
request port of a ready block whose turn it is; a command byte is at the chip. -/
def placeEncoded (e : Encoded) (s : State) : State :=
  match e with
  | .req w =>
    { s with busy := false, txn := none, tret := none, reqValid := true, reqWord := w, turns := .block :: s.turns }
  | .cmd f b => { s with turns := .atChip f b :: s.turns }

end Sys2Proof.Machine
end

