-- ==== Sys2Proof/Machine/Step.lean ====
section
/-! DEFINITION. One step: the agent whose turn it is moves; with no turn left, the Block moves. -/

namespace Sys2Proof.Machine

open Sys2Proof

/-- One step of the machine (10_state.md R30 to R32, 70_reset_and_hazards.md R191). -/
def step (s : State) : Host.Outcome State Fault Refusal :=
  match s.turns with
  | [] => blockStep s
  | t :: rest => takeTurn t { s with turns := rest }

/-- `s` with the instruction of the given bits placed so that the next step runs it (log entry 14). -/
def State.withFetchWord (s : State) (nbits w : Nat) : State :=
  match encodedOfBits nbits w with
  | some e => placeEncoded e s
  | none => s

end Sys2Proof.Machine
end

