-- ==== Sys2Proof/Machine/Assembler.lean ====
section
/-! DEFINITION. The written form of a request (30_encoding.md R75, R76, decision D28): text to request word. -/

namespace Sys2Proof.Machine

open Sys2Proof

/-! ### Numbers and words of a line -/

/-- The value of a decimal or hexadecimal digit. -/
def digitValue (c : Char) : Option Nat :=
  if '0' ≤ c ∧ c ≤ '9' then some (c.toNat - 48)
  else if 'A' ≤ c ∧ c ≤ 'F' then some (c.toNat - 55)
  else if 'a' ≤ c ∧ c ≤ 'f' then some (c.toNat - 87)
  else none

/-- Digits in a base, most significant first, after `acc`. -/
def digitsFrom (base : Nat) : List Char → Nat → Option Nat
  | [], acc => some acc
  | c :: cs, acc =>
    match digitValue c with
    | some d => if d < base then digitsFrom base cs (acc * base + d) else none
    | none => none

/-- "Decimal or `0x` hexadecimal numbers" (R75). Leading zeros are taken (DESIGN CHOICE, log entry 20). -/
def readNumber : List Char → Option Nat
  | [] => none
  | ['0', 'x'] => none
  | '0' :: 'x' :: cs => digitsFrom 16 cs 0
  | cs => digitsFrom 10 cs 0

/-- A `<code>` or `<value>`: "from 0 to 65535" (R75). -/
def readValue (cs : List Char) : Option Half :=
  match readNumber cs with
  | some n => if n < 65536 then some (BitVec.ofNat 16 n) else none
  | none => none

/-- A `<ch>`: `A`, `B`, `BOTH` or a raw nibble `#0x0`..`#0xF` (R75, R76). -/
def readChannel : List Char → Option Nibble
  | ['A'] => some chanA
  | ['B'] => some chanB
  | ['B', 'O', 'T', 'H'] => some chanBoth
  | ['#', '0', 'x', c] => (digitValue c).map (BitVec.ofNat 4)
  | _ => none

/-- The operand of SET_ADDR: a number or one of `GND`, `NC`, `VCC`, `GLOBAL` (R76). -/
def readAddress : List Char → Option Half
  | ['G', 'N', 'D'] => some 0x10#16
  | ['N', 'C'] => some 0x11#16
  | ['V', 'C', 'C'] => some 0x12#16
  | ['G', 'L', 'O', 'B', 'A', 'L'] => some 0x73#16
  | cs => readValue cs

/-- The operand of `.word`: a hexadecimal word, which may be grouped as in `0x1000_0FFF` (R75). R75 writes a reserved
ROP so and is silent on the rest; that `.word` takes every ROP, any number of digits below 2^32 and skips underscores is
a DESIGN CHOICE, log entry 20. -/
def readWord (cs : List Char) : Option ReqWord :=
  match cs.filter (· ≠ '_') with
  | '0' :: 'x' :: d :: ds =>
    match digitsFrom 16 (d :: ds) 0 with
    | some n => if n < 2 ^ 32 then some (BitVec.ofNat 32 n) else none
    | none => none
  | _ => none

/-- Cut a line into its words; a comma is a word of its own. `cur` is the word begun, in reverse. -/
def cutWords : List Char → List Char → List (List Char)
  | [], cur => if cur = [] then [] else [cur.reverse]
  | c :: cs, cur =>
    let done := if cur = [] then [] else [cur.reverse]
    if c = ' ' then done ++ cutWords cs []
    else if c = ',' then done ++ [[',']] ++ cutWords cs []
    else cutWords cs (c :: cur)

/-! ### Lines -/

/-- The ROP of a mnemonic written `<mnemonic> <ch>, <code>` (R61, R75). -/
def ropOfTwo (m : List Char) : Option Nibble :=
  if m = "WRITE".toList then some 0x1#4
  else if m = "STORE".toList then some 0x2#4
  else none

/-- The ROP of a mnemonic written alone (R61, R75). -/
def ropOfNone (m : List Char) : Option Nibble :=
  if m = "POWER_OFF".toList then some 0x5#4
  else if m = "INT_REF".toList then some 0x6#4
  else if m = "EXT_REF".toList then some 0x7#4
  else none

/-- A line of one operand (R75). Unused fields are written zero (R63). R75 writes the operand of SET_RATE as `<kHz>` and
does not define it; that it is read as a `<value>`, so decimal or `0x` hexadecimal from 0 to 65535, and that a larger
number is refused, is a DESIGN CHOICE, log entry 20. -/
def assembleOne (m x : List Char) : Option ReqWord :=
  if m = "UPDATE".toList then (readChannel x).map (fun ch => packReq 0x3#4 ch 0#8 0#16)
  else if m = "POWER_DOWN".toList then (readChannel x).map (fun ch => packReq 0x4#4 ch 0#8 0#16)
  else if m = "SET_ADDR".toList then (readAddress x).map (packReq 0x8#4 0#4 0#8)
  else if m = "SET_RES".toList then (readValue x).map (packReq 0x9#4 0#4 0#8)
  else if m = "SET_RATE".toList then (readValue x).map (packReq 0xA#4 0#4 0#8)
  else if m = ".word".toList then readWord x
  else none

/-- The request word of a line cut into words; none for a line that is not of R75's forms. -/
def assembleWords : List (List Char) → Option ReqWord
  | [m] => (ropOfNone m).map (fun rop => packReq rop 0#4 0#8 0#16)
  | [m, x] => assembleOne m x
  | [m, c, [','], v] =>
    match ropOfTwo m, readChannel c, readValue v with
    | some rop, some ch, some code => some (packReq rop ch 0#8 code)
    | _, _, _ => none
  | _ => none

/-- The request word of a written request (R75). -/
def assemble (line : List Char) : Option ReqWord := assembleWords (cutWords line [])

end Sys2Proof.Machine
end

