-- ==== Sys2Proof/Machine/Handles.lean ====
section
/-! DEFINITION. Several device handles (60_exceptions.md R183): one block instance per handle, no shared state. The
order of their transactions on a shared bus is not fixed: which handle steps next is an input, so every interleaving
is admitted (93 U11). What each handle's resets leave at the chip is drawn by that handle's own turns (log entries 6
and 15). -/

namespace Sys2Proof.Machine

open Sys2Proof

/-- Handle `k` takes a step; the others stand still. A number that names no handle moves nothing. -/
def stepHandle (k : Nat) (hs : List State) : Host.Outcome (List State) Fault Refusal :=
  match hs[k]? with
  | none => .next hs
  | some s =>
    match step s with
    | .next t => .next (hs.set k t)
    | .fault f => .fault f
    | .refused r => .refused r

end Sys2Proof.Machine
end

