-- ==== Sys2Proof/Safety.lean ====
section
/-! DEFINITION. What counts as a good state and a safe run: the whole-machine rules of the spec as predicates. -/

namespace Sys2Proof.Machine

open Sys2Proof

/-- A register value that SCALE can give: its low four bits are zero, since every resolution has at most 12 bits
(40_datapath.md R106, R108). -/
def legalDataBytes (_hi lo : Byte) : Bool := lo.extractLsb' 0 4 == 0#4

/-- A frame the block may send (30_encoding.md R69, R71, R73): a control frame whose byte is 0x1?, 0x4?, 0x05, 0x6F or
0x7F, or a data frame whose command byte is 0x0? or 0x3?. -/
def legalFrame : List Byte → Bool
  | [c] => cmdOpc c == 0x1#4 || cmdOpc c == 0x4#4 || c == 0x05#8 || c == 0x6F#8 || c == 0x7F#8
  | [c, hi, lo] => (cmdOpc c == 0x0#4 || cmdOpc c == 0x3#4) && legalDataBytes hi lo
  | _ => false

/-- A transaction the block may make: one of the four legal addresses (10_state.md R33) and a legal frame. -/
def legalTxn (t : Txn) : Bool := legalAddrs.contains t.addr && legalFrame t.frame

/-- An event of the trace whose transaction, if it is one, is legal. -/
def legalEvent : Event → Bool
  | .txn t => legalTxn t
  | .rsp _ => true

/-- The primitives of one transaction at the transport port (20_memory.md R48). -/
def Txn.prims (t : Txn) : List Prim := .tBegin t.addr t.rate :: (t.frame.map .tSend ++ [.tEnd])

/-- The primitives an event stands for: a transaction's, or none for a response. -/
def Event.prims : Event → List Prim
  | .txn t => t.prims
  | .rsp _ => []

/-- The block's registers are coherent and everything it sent is legal. -/
structure State.Inv (s : State) : Prop where
  /-- `CFG_ADDR` holds one of the four legal values (R23). -/
  addr_legal : s.cfgAddr ∈ legalAddrs
  /-- `TXN` is none exactly when `BUSY = 0` (R26). -/
  txn_iff_busy : s.txn = none ↔ s.busy = false
  /-- A returned status belongs to a transaction in flight (R31, R32). -/
  tret_busy : s.tret ≠ none → s.busy = true
  /-- The transaction in flight is legal (R33, R69). -/
  txn_legal : ∀ t, s.txn = some t → legalTxn t = true
  /-- So is every transaction ever made (R33, R69). -/
  trace_legal : ∀ e ∈ s.trace, legalEvent e = true
  /-- What reached the chip of an abandoned frame is a prefix of that frame (R191). -/
  abandoned_prefix : ∀ a ∈ s.abandoned, legalTxn a.txn = true ∧ a.reached <+: a.txn.frame

/-- The port's past is exactly the primitives of the recorded transactions, whole and in order (20_memory.md R45,
R48): the bytes of two frames never interleave. -/
def State.PortInv (s : State) : Prop := s.port = s.trace.flatMap Event.prims

/-- Each XFER response directly follows the event of its transaction, and the transaction in flight is the last event
(20_memory.md R50). -/
structure State.OrderInv (s : State) : Prop where
  busy_txn : s.busy = true → ∃ t, s.txn = some t ∧ s.trace.getLast? = some (.txn t)
  first_not_xfer : ∀ ts, s.trace[0]? ≠ some (.rsp (.xfer ts))
  xfer_after_txn : ∀ k ts, s.trace[k + 1]? = some (.rsp (.xfer ts)) → ∃ t, s.trace[k]? = some (.txn t)

/-- An XFER response. -/
def Event.isXfer : Event → Bool
  | .rsp (.xfer _) => true
  | .rsp .done => false
  | .rsp .illegal => false
  | .txn _ => false

/-- A transaction event. -/
def Event.isTxn : Event → Bool
  | .txn _ => true
  | .rsp _ => false

/-- The count of transactions: as many `Txn` events as XFER responses, transactions in flight and transactions a reset
abandoned together (60_exceptions.md R177, R191). Which response belongs to which transaction is `OrderInv`'s. -/
structure State.AccountInv (s : State) : Prop where
  txn_iff_busy : s.txn = none ↔ s.busy = false
  count : s.trace.countP Event.isTxn
    = s.trace.countP Event.isXfer + (if s.busy then 1 else 0) + s.abandoned.length

/-! ### What the transport's statuses may influence (60_exceptions.md R175) -/

/-- A response with its status blanked. -/
def Response.blank : Response → Response
  | .xfer _ => .xfer 0
  | .done => .done
  | .illegal => .illegal

/-- An event with its status blanked. -/
def Event.blank : Event → Event
  | .rsp r => .rsp r.blank
  | .txn t => .txn t

/-- A turn with its status blanked. -/
def Turn.blank : Turn → Turn
  | .tdone _ => .tdone 0
  | .late k _ => .late k 0
  | .block => .block
  | .present w => .present w
  | .withdraw => .withdraw
  | .reset n => .reset n
  | .bypass w => .bypass w
  | .atChip f b => .atChip f b

/-- A state with the value of every transport status blanked. Two states with equal blanks differ in status values
only. -/
def State.blank (s : State) : State :=
  { s with
    tret := s.tret.map (fun _ => 0)
    trace := s.trace.map Event.blank
    turns := s.turns.map Turn.blank }

/-- An outcome with the statuses of its next state blanked. -/
def blankOutcome : Host.Outcome State Fault Refusal → Host.Outcome State Fault Refusal
  | .next s => .next s.blank
  | .fault f => .fault f
  | .refused r => .refused r

/-! ### What an accepted request leaves, as the spec's pseudocode lists it -/

/-- The register value of R104, as arithmetic on naturals. -/
def registerValue (code : Half) (res : Res) : Nat := min code.toNat (2 ^ res.bits - 1) * 2 ^ (16 - res.bits)

/-- The two data bytes of a register value, high byte first (20_memory.md R40, R42). -/
def valueBytes (v : Nat) : List Byte := [BitVec.ofNat 8 (v / 256), BitVec.ofNat 8 (v % 256)]

/-- The packed command byte `opcode * 16 + channel` (30_encoding.md R66). -/
def packedByte (opc : Nat) (chan : Nibble) : Byte := BitVec.ofNat 8 (opc * 16 + chan.toNat)

/-- `s` after the ACCEPT of a frame operation whose frame is `f` (10_state.md R30): TXN, BUSY, the primitives of the
transport port and the event; nothing else. `v` is what `REQ_VALID` is afterwards, which the spec leaves to the
Requester (log entry 2). The record of the primitives is the model's (log entry 10), and no status is returned yet for
the new transaction (log entry 23). -/
def State.afterSending (s : State) (f : List Byte) (v : Bool) : State :=
  { s with
    txn := some ⟨s.cfgAddr, s.cfgRate, f⟩
    busy := true
    tret := none
    port := s.port ++ (.tBegin s.cfgAddr s.cfgRate :: (f.map .tSend ++ [.tEnd]))
    trace := s.trace ++ [.txn ⟨s.cfgAddr, s.cfgRate, f⟩]
    reqValid := v }

/-- `s` after a response with no transaction (10_state.md R30); `v` as above. -/
def State.afterAnswering (s : State) (r : Response) (v : Bool) : State :=
  { s with trace := s.trace ++ [.rsp r], reqValid := v }

/-- `s` after COMPLETE with status `ts` (10_state.md R31). -/
def State.afterCompleting (s : State) (ts : TStatus) : State :=
  { s with busy := false, txn := none, tret := none, trace := s.trace ++ [.rsp (.xfer ts)] }

/-- In every ready state the request `i` is accepted and sends the frame `f s`, and whatever status the transport
returns completes it (10_state.md R31, decision D12). -/
def SendsFrame (i : Instr) (f : State → List Byte) : Prop :=
  ∀ s : State, s.busy = false →
    ∃ v, exec i s = .next (s.afterSending (f s) v) ∧
      ∀ ts, blockStep { s.afterSending (f s) v with tret := some ts }
        = .next ((s.afterSending (f s) v).afterCompleting ts)

/-! ### Runs -/

/-- The Block moves at this step: its turn, or no turn is left (log entry 1). -/
def State.blockMoves (s : State) : Prop := s.turns = [] ∨ s.turns.head? = some .block

/-- A reset comes at this step, whatever it leaves at the chip. -/
def State.resetMoves (s : State) : Prop := ∃ n, s.turns.head? = some (.reset n)

/-- ACCEPT is enabled and is the step taken: the Block moves, it is ready, and a word is presented (10_state.md R27,
R30). -/
def State.acceptMoves (s : State) : Prop := s.blockMoves ∧ s.busy = false ∧ s.reqValid = true

/-- A turn that belongs to the spec's machine: any but a bypass of the port and a command run by the chip. -/
def Turn.ordinary : Turn → Bool
  | .block | .present _ | .withdraw | .tdone _ | .late _ _ | .reset _ => true
  | .bypass _ | .atChip _ _ => false

/-- A turn that neither answers the transaction in flight nor resets the block, and stops nothing. -/
def Turn.silent : Turn → Bool
  | .block | .present _ | .withdraw | .late _ _ => true
  | .tdone _ | .reset _ | .bypass _ | .atChip _ _ => false

/-- `t` is reached from `s` by steps that all answer a next state. -/
inductive Reaches : State → State → Prop where
  | refl (s : State) : Reaches s s
  | tail {s t u : State} : Reaches s t → step t = .next u → Reaches s u

end Sys2Proof.Machine
end

