-- ==== Sys2Proof/Certificates/Slice0/Obligations.lean ====
section
/-! DEFINITION. The statements for the provers. Each docstring names the rule of spec/ it formalises. -/

open Sys2Proof Sys2Proof.Machine

/-! ### Encoding (30_encoding.md) -/

/-- Decoding an encoded well-formed instruction gives it back, every field included (R60, R61, R66, R67). -/
def Obligations.DecodeOfEncodeIsIdentity : Prop :=
  ∀ i : Instr, i.wf = true → decode (encode i) = .ok i

/-- Every request word is the encoding of the well-formed instruction it decodes to: no bit is dropped (R60). -/
def Obligations.EncodeOfDecodedWordIsTheWord : Prop :=
  ∀ w : ReqWord, encode (decodeRequest w) = .req w ∧ (decodeRequest w).wf = true

/-- R60, R61: the ROP in bits 31:28 selects the request, and its fields are bits 27:24, 23:16 and 15:0. -/
def Obligations.RopSelectsTheRequest : Prop :=
  ∀ (rop chan : Nibble) (rsvd : Byte) (data : Half),
    decodeRequest (rop ++ chan ++ rsvd ++ data) =
      if rop = 0x0#4 then .reserved0 (chan ++ rsvd ++ data)
      else if rop = 0x1#4 then .write chan rsvd data
      else if rop = 0x2#4 then .store chan rsvd data
      else if rop = 0x3#4 then .update chan rsvd data
      else if rop = 0x4#4 then .powerDown chan rsvd data
      else if rop = 0x5#4 then .powerOff chan rsvd data
      else if rop = 0x6#4 then .intRef chan rsvd data
      else if rop = 0x7#4 then .extRef chan rsvd data
      else if rop = 0x8#4 then .setAddr chan rsvd data
      else if rop = 0x9#4 then .setRes chan rsvd data
      else if rop = 0xA#4 then .setRate chan rsvd data
      else if rop = 0xB#4 then .reservedB (chan ++ rsvd ++ data)
      else .reservedCF rop (chan ++ rsvd ++ data)

/-- R67, R68, R69: no byte 0x8? to 0xE?, no byte 0x5?, and no byte 0x6? or 0x7? whose SEL is not the constant 0xF is a
command of the table, whatever frame it leads. That the decoder refuses them by these names is the model's choice (log
entry 9). -/
def Obligations.UndefinedCommandBytesAreRejected : Prop :=
  ∀ (f : FrameFormat) (opc sel : Nibble),
    (0x8#4 ≤ opc → opc ≤ 0xE#4 → decodeCommand f (opc ++ sel) = .error (.undefinedOpcode opc)) ∧
    decodeCommand f (0x5#4 ++ sel) = .error (.packedPowerDownAll sel) ∧
    (opc = 0x6#4 ∨ opc = 0x7#4 → sel ≠ 0xF#4 → decodeCommand f (opc ++ sel) = .error (.referenceNotBoth sel))

/-- R70, R72: a monitor that is given a whole frame reads from it the command row of the operation that sent it, for
every operation, channel, code and resolution, the aliased byte 0x05 included. -/
def Obligations.MonitorReadsEveryFrame : Prop :=
  ∀ (op : FrameOp) (ch : Nibble) (code : Half) (res : Res),
    decodeFrame (frame op ch code res) = some (emittedCommand op ch)

/-- The decoder follows the opcode table: a word that lies in a row is read as an instruction of that row, but for the
byte 0x05, which lies in the two rows WriteInput and PowerDownAll (R70). So no other two rows overlap. -/
def Obligations.DecoderFollowsTheTable : Prop :=
  (∀ (i : Instr) (w : ReqWord), (tableRow i).holds (.req w) = true → tableRow (decodeRequest w) = tableRow i) ∧
  (∀ (i : Instr) (f : FrameFormat) (b : Byte), (tableRow i).holds (.cmd f b) = true →
    (decodeCommand f b).toOption.map tableRow = some (tableRow i) ∨ b = 0x05#8)

/-- A few words written out from the encodings of R60, R61, R66 and R70. That a table word of 8 bits is a command byte,
and one of a one-byte frame, so that 0x05 alone is PowerDownAll, is the model's choice (log entries 9 and 22). -/
def Obligations.SampleWordsDecode : Prop :=
  decodeTableWord 32 0b00010000000000000000111111111111 = some (.write 0x0#4 0x00#8 0x0FFF#16) ∧
  decodeTableWord 32 0b00110001000000000000000000000000 = some (.update 0x1#4 0x00#8 0x0000#16) ∧
  decodeTableWord 32 0b10100000000000000000000110010000 = some (.setRate 0x0#4 0x00#8 400#16) ∧
  decodeTableWord 32 0b11110001001000110100010101100111 = some (.reservedCF 0xF#4 0x1234567#28) ∧
  decodeTableWord 8 0b00011111 = some (.cmdUpdate 0xF#4) ∧
  decodeTableWord 8 0b00000101 = some .cmdPowerDownAll

/-- Five written requests of R75 and R76 (decision D28) assemble to the words the encodings give. That underscores are
skipped in the operand of `.word` is the model's choice (log entry 20). -/
def Obligations.SampleLinesAssemble : Prop :=
  assemble "WRITE A, 4095".toList = some 0x10000FFF#32 ∧
  assemble "STORE #0x5, 1".toList = some 0x25000001#32 ∧
  assemble "POWER_DOWN BOTH".toList = some 0x4F000000#32 ∧
  assemble "SET_ADDR GND".toList = some 0x80000010#32 ∧
  assemble ".word 0xF123_4567".toList = some 0xF1234567#32

/-- R80 (decisions D7, D8): the encoding of RSP_KIND, and which responses carry a status; 0b11 is never given. That a
response without a status holds no value at all is the model's choice (log entry 12). -/
def Obligations.ResponseEncoding : Prop :=
  (Response.done.kind = 0b00#2 ∧ Response.done.tstatus = none) ∧
  (∀ ts, (Response.xfer ts).kind = 0b01#2 ∧ (Response.xfer ts).tstatus = some ts) ∧
  (Response.illegal.kind = 0b10#2 ∧ Response.illegal.tstatus = none) ∧
  (∀ r : Response, r.kind ≠ 0b11#2)

/-! ### Datapath (40_datapath.md) -/

/-- R100: `ENC(op, ch) = ((op & 0xF) << 4) | (ch & 0xF)`. -/
def Obligations.EncPacksOpcodeAndChannel : Prop :=
  ∀ op ch : Nibble, (enc op ch).toNat = ((op.toNat &&& 0xF) <<< 4) ||| (ch.toNat &&& 0xF)

/-- R104: SCALE clamps, left-justifies and splits, as arithmetic on naturals. -/
def Obligations.ScaleClampsJustifiesAndSplits : Prop :=
  ∀ (code : Half) (res : Res),
    [(scale code res).1, (scale code res).2] = valueBytes (registerValue code res)

/-- R105: the clamp is saturating, never wraps, and SCALE is monotone in the code. -/
def Obligations.ScaleSaturatesAndIsMonotone : Prop :=
  (∀ (code : Half) (res : Res), 2 ^ res.bits ≤ code.toNat →
    clamp code res = 2 ^ res.bits - 1 ∧ scale code res = scale (BitVec.ofNat 16 (2 ^ res.bits - 1)) res) ∧
  (∀ (code : Half) (res : Res), code.toNat ≤ 2 ^ res.bits - 1 → clamp code res = code.toNat) ∧
  (∀ (a b : Half) (res : Res), a.toNat ≤ b.toNat →
    (scale a res).1.toNat * 256 + (scale a res).2.toNat ≤ (scale b res).1.toNat * 256 + (scale b res).2.toNat)

/-- R106, R108: in the 16-bit value `hi ++ lo` the top bits are the clamped code and the low `16 − res` bits are
zero. -/
def Obligations.LowDataBitsAreZero : Prop :=
  ∀ (code : Half) (res : Res),
    let v : Half := (scale code res).1 ++ (scale code res).2
    v.toNat / 2 ^ (16 - res.bits) = min code.toNat (2 ^ res.bits - 1) ∧ v.toNat % 2 ^ (16 - res.bits) = 0

/-- R107: the source's edge cases of SCALE, and the largest value is never 0xFFFF. -/
def Obligations.ScaleEndpoints : Prop :=
  (∀ res : Res, scale 0#16 res = (0x00#8, 0x00#8)) ∧
  scale 4095#16 .r12 = (0xFF#8, 0xF0#8) ∧ scale 1023#16 .r10 = (0xFF#8, 0xC0#8) ∧
  scale 255#16 .r8 = (0xFF#8, 0x00#8) ∧
  (∀ (code : Half) (res : Res), scale code res ≠ (0xFF#8, 0xFF#8))

/-- R109: on the unclamped domain SCALE is the source's formula. -/
def Obligations.ScaleOnUnclampedCodes : Prop :=
  ∀ (res : Res) (code : Half), code.toNat ≤ 2 ^ res.bits - 1 →
    (scale code res).1.toNat = (code.toNat <<< (16 - res.bits)) >>> 8 ∧
    (scale code res).2.toNat = (code.toNat <<< (16 - res.bits)) &&& 0xFF

/-- R113: a control frame depends on neither code nor resolution; of a data frame, the command byte depends only on
the operation and the channel, and the data bytes only on the code and the resolution. -/
def Obligations.FrameDependencies : Prop :=
  (∀ (op : FrameOp) (ch : Nibble) (c c' : Half) (r r' : Res), op ≠ .write → op ≠ .store →
    frame op ch c r = frame op ch c' r') ∧
  (∀ (op op' : FrameOp) (ch ch' : Nibble) (c c' : Half) (r r' : Res),
    (op = .write ∨ op = .store) → (op' = .write ∨ op' = .store) →
    (frame op ch c r).head? = (frame op ch c' r').head? ∧ (frame op ch c r).tail = (frame op' ch' c r).tail)

/-- R44, R72: a frame has 3 bytes for WRITE and STORE, and 1 byte for the five control operations. -/
def Obligations.FrameLengthIsFixed : Prop :=
  ∀ (op : FrameOp) (ch : Nibble) (code : Half) (res : Res),
    (frame op ch code res).length = if op = .write ∨ op = .store then 3 else 1

/-- R70, R198: two different operations send the same first byte only as STORE with channel 0x5 and POWER_OFF do, and
then the frames differ in length. -/
def Obligations.OnlyPowerOffByteIsAliased : Prop :=
  ∀ (op op' : FrameOp) (ch ch' : Nibble) (c c' : Half) (r r' : Res),
    (frame op ch c r).head? = (frame op' ch' c' r').head? → op ≠ op' →
    ((op = .store ∧ ch = 0x5#4 ∧ op' = .powerOff) ∨ (op' = .store ∧ ch' = 0x5#4 ∧ op = .powerOff)) ∧
    (frame op ch c r).length ≠ (frame op' ch' c' r').length

/-! ### Data-bearing operations (41_data_operations.md) -/

/-- R120: WRITE sends `[0x3 ++ ch, hi, lo]`. That no status is returned
yet for the new transaction is log entry 23, the record of the port's primitives is log entry 10, and COMPLETE is R31
(decision D12). -/
def Obligations.WriteSendsItsDataFrame : Prop :=
  ∀ (ch : Nibble) (rsvd : Byte) (code : Half),
    decodeRequest (0x1#4 ++ ch ++ rsvd ++ code) = .write ch rsvd code ∧
    SendsFrame (.write ch rsvd code) (fun s => packedByte 0x3 ch :: valueBytes (registerValue code s.cfgRes))

/-- R121 (decision D17): STORE sends `[0x0 ++ ch, hi, lo]`. That no status is returned
yet for the new transaction is log entry 23, the record of the port's primitives is log entry 10, and COMPLETE is R31
(decision D12). -/
def Obligations.StoreSendsItsDataFrame : Prop :=
  ∀ (ch : Nibble) (rsvd : Byte) (code : Half),
    decodeRequest (0x2#4 ++ ch ++ rsvd ++ code) = .store ch rsvd code ∧
    SendsFrame (.store ch rsvd code) (fun s => packedByte 0x0 ch :: valueBytes (registerValue code s.cfgRes))

/-- R123: for the same channel, code and state, WRITE and STORE send transactions with equal address, rate and data
bytes; the OPC nibbles of their command bytes are 0x3 and 0x0 and the SEL nibbles are equal. -/
def Obligations.WriteAndStoreDifferInOpcodeOnly : Prop :=
  ∀ (ch : Nibble) (rsvd : Byte) (code : Half) (s : State), s.busy = false →
    ∃ t u cw cs hi lo, exec (.write ch rsvd code) s = .next t ∧ exec (.store ch rsvd code) s = .next u ∧
      t.txn = some ⟨s.cfgAddr, s.cfgRate, [cw, hi, lo]⟩ ∧ u.txn = some ⟨s.cfgAddr, s.cfgRate, [cs, hi, lo]⟩ ∧
      cmdOpc cw = 0x3#4 ∧ cmdOpc cs = 0x0#4 ∧ cmdSel cw = cmdSel cs

/-! ### Control-only operations (42_control_operations.md) -/

/-- R130: UPDATE sends `[0x1 ++ ch]`. That no status is returned
yet for the new transaction is log entry 23, the record of the port's primitives is log entry 10, and COMPLETE is R31
(decision D12). -/
def Obligations.UpdateSendsItsCommand : Prop :=
  ∀ (ch : Nibble) (rsvd : Byte) (data : Half),
    decodeRequest (0x3#4 ++ ch ++ rsvd ++ data) = .update ch rsvd data ∧
    SendsFrame (.update ch rsvd data) (fun _ => [packedByte 0x1 ch])

/-- R131: POWER_DOWN sends `[0x4 ++ ch]`. That no status is returned
yet for the new transaction is log entry 23, the record of the port's primitives is log entry 10, and COMPLETE is R31
(decision D12). -/
def Obligations.PowerDownSendsItsCommand : Prop :=
  ∀ (ch : Nibble) (rsvd : Byte) (data : Half),
    decodeRequest (0x4#4 ++ ch ++ rsvd ++ data) = .powerDown ch rsvd data ∧
    SendsFrame (.powerDown ch rsvd data) (fun _ => [packedByte 0x4 ch])

/-- R132: POWER_OFF sends `[0x05]` for every CHAN, RSVD, DATA and resolution. That no status is returned
yet for the new transaction is log entry 23, the record of the port's primitives is log entry 10, and COMPLETE is R31
(decision D12). -/
def Obligations.PowerOffSendsFixedByte : Prop :=
  ∀ (ch : Nibble) (rsvd : Byte) (data : Half),
    decodeRequest (0x5#4 ++ ch ++ rsvd ++ data) = .powerOff ch rsvd data ∧
    SendsFrame (.powerOff ch rsvd data) (fun _ => [0x05#8])

/-- R133: INT_REF sends `[0x6F]` for every CHAN, RSVD and DATA. That no status is returned
yet for the new transaction is log entry 23, the record of the port's primitives is log entry 10, and COMPLETE is R31
(decision D12). -/
def Obligations.IntRefSendsFixedByte : Prop :=
  ∀ (ch : Nibble) (rsvd : Byte) (data : Half),
    decodeRequest (0x6#4 ++ ch ++ rsvd ++ data) = .intRef ch rsvd data ∧
    SendsFrame (.intRef ch rsvd data) (fun _ => [0x6F#8])

/-- R134: EXT_REF sends `[0x7F]` for every CHAN, RSVD and DATA. That no status is returned
yet for the new transaction is log entry 23, the record of the port's primitives is log entry 10, and COMPLETE is R31
(decision D12). -/
def Obligations.ExtRefSendsFixedByte : Prop :=
  ∀ (ch : Nibble) (rsvd : Byte) (data : Half),
    decodeRequest (0x7#4 ++ ch ++ rsvd ++ data) = .extRef ch rsvd data ∧
    SendsFrame (.extRef ch rsvd data) (fun _ => [0x7F#8])

/-! ### Configuration requests (43_configuration.md) -/

/-- R150: SET_ADDR stores a legal address, compared as a 16-bit value, and 0x73 for any other value (decision D15);
it answers DONE and changes nothing else. -/
def Obligations.SetAddrStoresLegalOrGlobal : Prop :=
  ∀ (ch : Nibble) (rsvd : Byte) (data : Half),
    decodeRequest (0x8#4 ++ ch ++ rsvd ++ data) = .setAddr ch rsvd data ∧
    ∀ s : State, s.busy = false →
      ∃ v a, a = BitVec.ofNat 7 (if data.toNat ∈ [0x10, 0x11, 0x12, 0x73] then data.toNat else 0x73) ∧
        exec (.setAddr ch rsvd data) s = .next (State.afterAnswering { s with cfgAddr := a } .done v)

/-- R153: SET_RES stores 8, 10 or 12, compared as a 16-bit value, and 12 for any other value (decision D15); it
answers DONE and changes nothing else. -/
def Obligations.SetResStoresLegalOrTwelve : Prop :=
  ∀ (ch : Nibble) (rsvd : Byte) (data : Half),
    decodeRequest (0x9#4 ++ ch ++ rsvd ++ data) = .setRes ch rsvd data ∧
    ∀ s : State, s.busy = false →
      ∃ v res, res.bits = (if data.toNat ∈ [8, 10, 12] then data.toNat else 12) ∧
        exec (.setRes ch rsvd data) s = .next (State.afterAnswering { s with cfgRes := res } .done v)

/-- R156: SET_RATE stores K400 for 400 and K100 for any other value (decision D14); it answers DONE and changes
nothing else. -/
def Obligations.SetRateStoresFastOnlyFor400 : Prop :=
  ∀ (ch : Nibble) (rsvd : Byte) (data : Half),
    decodeRequest (0xA#4 ++ ch ++ rsvd ++ data) = .setRate ch rsvd data ∧
    ∀ s : State, s.busy = false →
      ∃ v rate, rate.toBit = (if data.toNat = 400 then 1#1 else 0#1) ∧
        exec (.setRate ch rsvd data) s = .next (State.afterAnswering { s with cfgRate := rate } .done v)

/-- R151: an illegal address does not keep the previous one, and cannot be told from `SET_ADDR GLOBAL`. -/
def Obligations.IllegalAddressEqualsGlobal : Prop :=
  ∀ (ch : Nibble) (rsvd : Byte) (data : Half) (s : State), data.toNat ∉ [0x10, 0x11, 0x12, 0x73] →
    exec (.setAddr ch rsvd data) s = exec (.setAddr ch rsvd 0x0073#16) s

/-- R158: a setter accepted before a frame operation governs that operation's transaction: its address, its rate and
the resolution its data bytes are scaled with. -/
def Obligations.SetterGovernsNextFrame : Prop :=
  ∀ (ch : Nibble) (rsvd : Byte) (data : Half) (i : Instr) (op : FrameOp) (c : Nibble) (code : Half) (s : State),
    s.busy = false → frameRequest i = some (op, c, code) →
    (∃ t u, exec (.setAddr ch rsvd data) s = .next t ∧ exec i t = .next u ∧
      u.txn = some ⟨addrOf data, s.cfgRate, frame op c code s.cfgRes⟩) ∧
    (∃ t u, exec (.setRes ch rsvd data) s = .next t ∧ exec i t = .next u ∧
      u.txn = some ⟨s.cfgAddr, s.cfgRate, frame op c code (resOf data)⟩) ∧
    (∃ t u, exec (.setRate ch rsvd data) s = .next t ∧ exec i t = .next u ∧
      u.txn = some ⟨s.cfgAddr, rateOf data, frame op c code s.cfgRes⟩)

/-! ### Reserved words, ignored fields, waiting, command bytes -/

/-- R172 (decision D4): a request whose ROP is 0x0 or 0xB to 0xF answers ILLEGAL, makes no transaction and changes no
register. -/
def Obligations.ReservedWordsAnswerIllegal : Prop :=
  ∀ (rop : Nibble) (rest : BitVec 28) (s : State), s.busy = false →
    (∃ v, exec (.reserved0 rest) s = .next (s.afterAnswering .illegal v)) ∧
    (∃ v, exec (.reservedB rest) s = .next (s.afterAnswering .illegal v)) ∧
    (∃ v, exec (.reservedCF rop rest) s = .next (s.afterAnswering .illegal v)) ∧
    ((rop = 0x0#4 ∨ 0xB#4 ≤ rop) →
      ∃ v, exec (decodeRequest (rop ++ rest)) s = .next (s.afterAnswering .illegal v))

/-- R63, R65: RSVD and every field that R61 does not list as used by a request change no state, no frame and no
response (decision D25); in every state, the block busy or not. -/
def Obligations.IgnoredFieldsChangeNothing : Prop :=
  ∀ (ch ch' : Nibble) (r r' : Byte) (d d' : Half) (s : State),
    exec (.write ch r d) s = exec (.write ch r' d) s ∧
    exec (.store ch r d) s = exec (.store ch r' d) s ∧
    exec (.update ch r d) s = exec (.update ch r' d') s ∧
    exec (.powerDown ch r d) s = exec (.powerDown ch r' d') s ∧
    exec (.powerOff ch r d) s = exec (.powerOff ch' r' d') s ∧
    exec (.intRef ch r d) s = exec (.intRef ch' r' d') s ∧
    exec (.extRef ch r d) s = exec (.extRef ch' r' d') s ∧
    exec (.setAddr ch r d) s = exec (.setAddr ch' r' d) s ∧
    exec (.setRes ch r d) s = exec (.setRes ch' r' d) s ∧
    exec (.setRate ch r d) s = exec (.setRate ch' r' d) s

/-- R27, R195: a request presented while `BUSY = 1` is not accepted; it waits with `REQ_READY = 0`, setters and
reserved words too (decision D9); the state is unchanged meanwhile (log entry 21). -/
def Obligations.RequestsWaitWhileBusy : Prop :=
  ∀ (i : Instr) (s : State), isRequest i = true → s.busy = true → exec i s = .next s ∧ s.reqReady = false

/-- The model's choice (log entry 2): an accepted word is taken from the request port, so it is accepted once (R21,
"each accepted request is executed exactly once"). -/
def Obligations.AcceptedWordIsTakenFromThePort : Prop :=
  ∀ (i : Instr) (s : State), isRequest i = true → s.busy = false →
    ∃ t, exec i s = .next t ∧ t.reqValid = false ∧ t.reqWord = s.reqWord ∧ t.turns = s.turns

/-- R6, R17, R34 (and 93 U12 and U13, whose treatment is `refuse`): to run a command byte is the chip's part, for which
the spec gives a model no meaning; the two that the block never emits (R69) are refused by their own name. -/
def Obligations.ChipCommandsAreRefused : Prop :=
  ∀ (sel : Nibble) (s : State),
    exec (.cmdWriteInput sel) s = .refused .chipNotModelled ∧
    exec (.cmdUpdate sel) s = .refused .chipNotModelled ∧
    exec (.cmdWriteUpdateAll sel) s = .refused .neverEmitted ∧
    exec (.cmdWriteUpdateOne sel) s = .refused .chipNotModelled ∧
    exec (.cmdPowerDownOne sel) s = .refused .chipNotModelled ∧
    exec .cmdPowerDownAll s = .refused .chipNotModelled ∧
    exec .cmdInternalRef s = .refused .chipNotModelled ∧
    exec .cmdExternalRef s = .refused .chipNotModelled ∧
    exec (.cmdNoOp sel) s = .refused .neverEmitted

/-! ### The steps of the agents (10_state.md) -/

/-- R30: a step of a ready block at whose port a word stands is the meaning of the instruction the word decodes to, at
that state less the turn; a command byte at the chip is the meaning of the row it decodes to. That the moves stand in a
script, and that the Block moves when it is empty, is the model's choice (log entry 1); that a command byte is run by a
move of the chip is log entries 8 and 14. -/
def Obligations.StepRunsTheDecodedInstruction : Prop :=
  (∀ (s : State), s.turns = [] → s.busy = false → s.reqValid = true →
    step s = exec (decodeRequest s.reqWord) s) ∧
  (∀ (s : State) (rest : List Turn), s.turns = .block :: rest → s.busy = false → s.reqValid = true →
    step s = exec (decodeRequest s.reqWord) { s with turns := rest }) ∧
  (∀ (s : State) (rest : List Turn) (f : FrameFormat) (b : Byte) (i : Instr),
    s.turns = .atChip f b :: rest → decodeCommand f b = .ok i → step s = exec i { s with turns := rest })

/-- `withFetchWord` does what it says: the next step runs the instruction of the table word. How a word comes to the
block is the model's choice (log entry 14). -/
def Obligations.PlacedWordRunsNext : Prop :=
  ∀ (s : State) (w : Nat) (i : Instr),
    (decodeTableWord 32 w = some i →
      step (s.withFetchWord 32 w) = exec i { s.withFetchWord 32 w with turns := s.turns }) ∧
    (decodeTableWord 8 w = some i → step (s.withFetchWord 8 w) = exec i s)

/-- R27, R30, R31: when the Block moves, COMPLETE forwards a returned status unmodified and makes the block ready; a
BUSY block with no status returned, and a ready block at whose port no word is presented, have no step enabled: they
stay as they are, and if nothing else moves, for ever. That a waiting block's move answers a next state, the old one
less the turn, is the model's reading of "stuck" (log entry 3). -/
def Obligations.BlockCompletesOrWaits : Prop :=
  ∀ s : State, s.blockMoves →
    (s.busy = true → ∀ ts, s.tret = some ts →
      step s = .next (State.afterCompleting { s with turns := s.turns.tail } ts)) ∧
    (s.busy = true → s.tret = none → step s = .next { s with turns := s.turns.tail }) ∧
    (s.busy = false → s.reqValid = false → step s = .next { s with turns := s.turns.tail }) ∧
    (s.turns = [] → (s.busy = true ∧ s.tret = none) ∨ (s.busy = false ∧ s.reqValid = false) →
      ∀ n, Host.Core.run Sys2Proof.core n s = .next s)

/-- R202: whatever the Requester does meanwhile, and however often the block may move, as long as no status is
returned and no reset comes the block stays BUSY with the same transaction, accepts nothing, answers nothing and keeps
its configuration. That a waiting block's moves answer a next state is log entry 3; that statuses returned for abandoned
transactions pass it by is R191 in the form of log entry 7. -/
def Obligations.UnansweredBlockHangs : Prop :=
  ∀ (n : Nat) (s : State), s.busy = true → s.tret = none → (∀ t ∈ s.turns, t.silent = true) →
    ∃ t, Host.Core.run Sys2Proof.core n s = .next t ∧ t.busy = true ∧ t.tret = none ∧ t.txn = s.txn ∧
      t.trace = s.trace ∧ t.port = s.port ∧ t.cfgAddr = s.cfgAddr ∧ t.cfgRes = s.cfgRes ∧ t.cfgRate = s.cfgRate

/-- R32: TDONE returns one status, any status, for a transaction for which none has been returned; a second one is
not taken (the last clause is the model's choice, log entry 4). -/
def Obligations.TransportReturnsOneStatus : Prop :=
  ∀ (s : State) (ts : TStatus) (rest : List Turn), s.turns = .tdone ts :: rest →
    (s.busy = true → s.tret = none → step s = .next { s with tret := some ts, turns := rest }) ∧
    ((s.busy = false ∨ s.tret ≠ none) → step s = .next { s with turns := rest })

/-- R27, R53: what the Requester drives touches its own two signals only; a word changed after acceptance has no
effect on the transaction in flight. -/
def Obligations.RequesterMovesOnlyItsSignals : Prop :=
  ∀ (s : State) (w : ReqWord) (rest : List Turn),
    (s.turns = .present w :: rest → step s = .next { s with reqValid := true, reqWord := w, turns := rest }) ∧
    (s.turns = .withdraw :: rest → step s = .next { s with reqValid := false, turns := rest })

/-- R55 (decision D9), 93 U1: a call that bypasses the request port is a fault (log entry 19). -/
def Obligations.PortBypassFaults : Prop :=
  ∀ (s : State) (w : ReqWord) (rest : List Turn), s.turns = .bypass w :: rest → step s = .fault .portBypassed

/-! ### Reset (70_reset_and_hazards.md) -/

/-- R190: the block's state after reset, and that it is ready (K100 is the spec's decision D13; BUSY and TXN are D23). -/
def Obligations.ResetState : Prop :=
  State.reset.cfgAddr = 0x73#7 ∧ State.reset.cfgRes.bits = 12 ∧ State.reset.cfgRate = .k100 ∧
  State.reset.busy = false ∧ State.reset.txn = none ∧ State.reset.reqReady = true

/-- R190 to R192: a reset in every state, the block busy or not, gives the block its reset state `(0x73, 12, K100, 0,
none)`, gives no response, calls no primitive and keeps the trace. The transaction in flight, if there is one, is
abandoned, and what reached the chip is the prefix of its frame that the reset draws (decision D23; the form of the draw
is log entry 6). What it leaves of the other agents' signals and of the records is the model's choice (log entry 11). -/
def Obligations.ResetAbandonsTheTransaction : Prop :=
  ∀ (s : State) (reached : Nat) (rest : List Turn), s.turns = .reset reached :: rest →
    ∃ t, step s = .next t ∧
      t.cfgAddr = 0x73#7 ∧ t.cfgRes = .r12 ∧ t.cfgRate = .k100 ∧ t.busy = false ∧ t.txn = none ∧ t.tret = none ∧
      t.trace = s.trace ∧ t.port = s.port ∧ t.reqValid = s.reqValid ∧ t.reqWord = s.reqWord ∧ t.turns = rest ∧
      (s.txn = none → t.abandoned = s.abandoned) ∧
      (∀ x, s.txn = some x → ∃ a, t.abandoned = s.abandoned ++ [a] ∧ a.txn = x ∧ a.reached = x.frame.take reached)

/-- R191: a status that the transport returns for an abandoned transaction is ignored by the block: the record of the
`k`-th abandoned transaction says afterwards that it has been answered, and nothing else changes (decision D23; the
record is the model's, log entry 7). A number that names no abandoned transaction changes nothing (log entry 4). -/
def Obligations.LateStatusIsIgnored : Prop :=
  ∀ (s : State) (k : Nat) (ts : TStatus) (rest : List Turn), s.turns = .late k ts :: rest →
    (∀ a, s.abandoned[k]? = some a →
      step s = .next { s with abandoned := s.abandoned.set k { a with answered := true }, turns := rest }) ∧
    (s.abandoned[k]? = none → step s = .next { s with turns := rest })

/-! ### Invariants -/

/-- The reset state meets the invariant. Its clauses on the registers are R190's; its clauses on the returned status,
the trace and the abandoned transactions rest on the reset values of log entry 13, which are the model's choice. -/
def Obligations.ResetMeetsInv : Prop := State.reset.Inv

/-- Every step keeps the invariant: a legal device address (R23), `TXN` none exactly when `BUSY = 0` (R26), only legal
addresses (R33) and only frames and command bytes the block may send (R69, R71, R108), abandoned frames reach the chip
as prefixes (R191). That a status is held only for a busy block is R32 in the form of log entry 23. -/
def Obligations.StepKeepsInv : Prop := ∀ s t : State, s.Inv → step s = .next t → t.Inv

/-- The reset state meets the invariants on the port, the order and the count of transactions. They rest on the empty
records of log entry 13, which are the model's choice; BUSY and TXN are R190's. -/
def Obligations.ResetMeetsTraceInvariants : Prop :=
  State.reset.PortInv ∧ State.reset.OrderInv ∧ State.reset.AccountInv

/-- R45, R48: at the transport port stand exactly the whole transactions of the trace, in order. The record of the
port's primitives is the model's (log entry 10). -/
def Obligations.StepKeepsWholeTransactions : Prop := ∀ s t : State, s.PortInv → step s = .next t → t.PortInv

/-- R50: every XFER response directly follows its own transaction, and nothing is accepted in between. -/
def Obligations.StepKeepsResponseOrder : Prop := ∀ s t : State, s.OrderInv → step s = .next t → t.OrderInv

/-- R177, R191: the count of transactions. There are as many `Txn` events as XFER responses, transactions in flight and
transactions a reset abandoned together. Which response belongs to which transaction is `StepKeepsResponseOrder`. -/
def Obligations.StepKeepsTransactionAccount : Prop :=
  ∀ s t : State, s.AccountInv → step s = .next t → t.AccountInv

/-! ### Whole-machine rules -/

/-- R23 to R25: only the acceptance of a SET_ADDR writes CFG_ADDR, only that of a SET_RES writes CFG_RES, only that of a
SET_RATE writes CFG_RATE, beside a reset. Acceptance is the Block's own move, with BUSY = 0 and REQ_VALID = 1 (R27,
R30). -/
def Obligations.OnlySettersWriteConfiguration : Prop :=
  ∀ s t : State, step s = .next t →
    (t.cfgAddr ≠ s.cfgAddr → s.resetMoves ∨
      (s.acceptMoves ∧ ∃ c r d, decodeRequest s.reqWord = .setAddr c r d ∧ t.cfgAddr = addrOf d)) ∧
    (t.cfgRes ≠ s.cfgRes → s.resetMoves ∨
      (s.acceptMoves ∧ ∃ c r d, decodeRequest s.reqWord = .setRes c r d ∧ t.cfgRes = resOf d)) ∧
    (t.cfgRate ≠ s.cfgRate → s.resetMoves ∨
      (s.acceptMoves ∧ ∃ c r d, decodeRequest s.reqWord = .setRate c r d ∧ t.cfgRate = rateOf d))

/-- R26, R27, R30, R31: BUSY rises only by the acceptance of a frame operation (the Block's own move, with REQ_VALID = 1),
which puts its transaction, computed from the registers at that moment, in TXN; it falls only by COMPLETE (the Block's
own move, with a status returned) or a reset; while it stays 1, TXN, the trace and the port stay too. -/
def Obligations.BusyFollowsTheTransaction : Prop :=
  ∀ s t : State, step s = .next t →
    (s.busy = false → t.busy = true → s.acceptMoves ∧ ∃ op c code,
      frameRequest (decodeRequest s.reqWord) = some (op, c, code) ∧
      t.txn = some ⟨s.cfgAddr, s.cfgRate, frame op c code s.cfgRes⟩) ∧
    (s.busy = true → t.busy = false → s.resetMoves ∨
      (s.blockMoves ∧ ∃ ts, s.tret = some ts ∧ t.trace = s.trace ++ [.rsp (.xfer ts)])) ∧
    (s.busy = true → t.busy = true → t.txn = s.txn ∧ t.trace = s.trace ∧ t.port = s.port)

/-- R34, R46: a step adds at most one event to the trace and never changes a past one. -/
def Obligations.StepAddsAtMostOneEvent : Prop :=
  ∀ s t : State, step s = .next t → t.trace = s.trace ∨ ∃ e, t.trace = s.trace ++ [e]

/-- R170, R172: as long as nothing bypasses the port and no command byte is run by the chip, every step answers a next
state for whose coming moves the same holds, so the machine never stops, however many steps it takes. That a move with
no step enabled answers a next state is log entries 3 and 4. -/
def Obligations.OrdinaryRunsNeverStop : Prop :=
  ∀ s : State, (∀ m ∈ s.turns, m.ordinary = true) →
    (∃ t, step s = .next t ∧ t.turns = s.turns.tail ∧ ∀ m ∈ t.turns, m.ordinary = true) ∧
    ∀ n, ∃ t, Host.Core.run Sys2Proof.core n s = .next t ∧ ∀ m ∈ t.turns, m.ordinary = true

/-- R175, R179: the block never tests a transport status. Two runs from states that differ in status values only
differ in status values only, however long. -/
def Obligations.StatusesInfluenceNothing : Prop :=
  ∀ (n : Nat) (s s' : State), s.blank = s'.blank →
    blankOutcome (Host.Core.run Sys2Proof.core n s) = blankOutcome (Host.Core.run Sys2Proof.core n s')

/-- R30 to R32, R204: a frame operation presented to a ready block is accepted and, once the transport returns a
status, answered: three moves, two events, and the block is ready with its configuration unchanged. The script of moves is log
entry 1. -/
def Obligations.FrameOperationCompletes : Prop :=
  ∀ (s : State) (ts : TStatus) (rest : List Turn) (op : FrameOp) (c : Nibble) (code : Half),
    s.busy = false → s.reqValid = true → frameRequest (decodeRequest s.reqWord) = some (op, c, code) →
    s.turns = .block :: .tdone ts :: .block :: rest →
    ∃ t, Host.Core.run Sys2Proof.core 3 s = .next t ∧ t.reqReady = true ∧ t.txn = none ∧ t.turns = rest ∧
      t.trace = s.trace ++ [.txn ⟨s.cfgAddr, s.cfgRate, frame op c code s.cfgRes⟩, .rsp (.xfer ts)] ∧
      t.cfgAddr = s.cfgAddr ∧ t.cfgRes = s.cfgRes ∧ t.cfgRate = s.cfgRate

/-- 95_test_vectors.md P4, for every frame operation and every address: a SET_ADDR presented behind a frame operation
waits for its completion, cannot change the address of the frame in flight, and is then executed. The script of moves is log
entry 1; that an accepted word leaves the port is log entry 2. -/
def Obligations.SetterWaitsForTransaction : Prop :=
  ∀ (s : State) (w : ReqWord) (ts : TStatus) (op : FrameOp) (c c' : Nibble) (code d : Half) (r : Byte)
    (rest : List Turn),
    s.busy = false → s.reqValid = true → frameRequest (decodeRequest s.reqWord) = some (op, c, code) →
    decodeRequest w = .setAddr c' r d →
    s.turns = .block :: .present w :: .block :: .tdone ts :: .block :: .block :: rest →
    ∃ t, Host.Core.run Sys2Proof.core 6 s = .next t ∧ t.reqReady = true ∧ t.txn = none ∧
      t.cfgAddr = addrOf d ∧ t.cfgRes = s.cfgRes ∧ t.cfgRate = s.cfgRate ∧
      t.trace = s.trace ++
        [.txn ⟨s.cfgAddr, s.cfgRate, frame op c code s.cfgRes⟩, .rsp (.xfer ts), .rsp .done]

/-- R183 (decision D19): handles share no state: a step of one leaves every other as it was. That any handle may move
next is log entry 15. -/
def Obligations.HandlesShareNoState : Prop :=
  ∀ (k : Nat) (hs : List State) (s t : State), hs[k]? = some s → step s = .next t →
    ∃ hs', stepHandle k hs = .next hs' ∧ hs'.length = hs.length ∧ hs'[k]? = some t ∧
      ∀ j, j ≠ k → hs'[j]? = hs[j]?
end

