-- ==== Sys2Proof/Laws/Datapath.lean ====
section
/-! SUPPORT. Small lemmas of the datapath functions (40_datapath.md). -/

namespace Sys2Proof.Machine

open Sys2Proof

/-! ### The clamp and the justified value -/

theorem clamp_le_maxCode (code : Half) (res : Res) : clamp code res ≤ maxCode res := Nat.min_le_right _ _

theorem clamp_le_code (code : Half) (res : Res) : clamp code res ≤ code.toNat := Nat.min_le_left _ _

theorem clamp_of_le (code : Half) (res : Res) (h : code.toNat ≤ maxCode res) : clamp code res = code.toNat :=
  Nat.min_eq_left h

theorem clamp_of_ge (code : Half) (res : Res) (h : maxCode res ≤ code.toNat) : clamp code res = maxCode res :=
  Nat.min_eq_right h

/-- The shift loses no bit: the modulus of R104 never acts (R106). -/
theorem justify_toNat (code : Half) (res : Res) :
    (justify code res).toNat = clamp code res * 2 ^ (16 - res.bits) := by
  have h := clamp_le_maxCode code res
  have hlt : clamp code res * 2 ^ (16 - res.bits) < 2 ^ 16 := by
    cases res <;> simp only [maxCode, Res.bits] at * <;> omega
  rw [justify, BitVec.toNat_ofNat, Nat.shiftLeft_eq, Nat.mod_eq_of_lt hlt]

theorem scale_hi_toNat (code : Half) (res : Res) :
    (scale code res).1.toNat = clamp code res * 2 ^ (16 - res.bits) / 256 := by
  have h := (justify code res).isLt
  rw [← justify_toNat]
  simp only [scale, BitVec.extractLsb'_toNat, Nat.shiftRight_eq_div_pow]
  omega

theorem scale_lo_toNat (code : Half) (res : Res) :
    (scale code res).2.toNat = clamp code res * 2 ^ (16 - res.bits) % 256 := by
  rw [← justify_toNat]
  simp [scale, BitVec.extractLsb'_toNat]

/-! ### Frames -/

@[simp] theorem frame_data (op : FrameOp) (ch : Nibble) (code : Half) (res : Res) (h : formatOf op = .data) :
    frame op ch code res = [cmdsel op ch, (scale code res).1, (scale code res).2] := by simp [frame, h]

@[simp] theorem frame_control (op : FrameOp) (ch : Nibble) (code : Half) (res : Res) (h : formatOf op = .control) :
    frame op ch code res = [cmdsel op ch] := by simp [frame, h]

theorem enc_toNat (op ch : Nibble) : (enc op ch).toNat = 2 ^ 4 * op.toNat + ch.toNat := by
  have h := Nat.two_pow_add_eq_or_of_lt ch.isLt op.toNat
  rw [enc, BitVec.toNat_append, Nat.shiftLeft_eq, Nat.mul_comm, ← h]

end Sys2Proof.Machine
end

