-- ==== Sys2Proof/Laws/Decode.lean ====
section
/-! SUPPORT. The fields of a packed word are what was packed, and a word is the packing of its fields. -/

namespace Sys2Proof

/-! ### Request words (30_encoding.md R60) -/

@[simp] theorem reqRop_packReq (rop chan : Nibble) (rsvd : Byte) (data : Half) :
    reqRop (packReq rop chan rsvd data) = rop := by
  ext i hi; simp [reqRop, packReq]; grind

@[simp] theorem reqChan_packReq (rop chan : Nibble) (rsvd : Byte) (data : Half) :
    reqChan (packReq rop chan rsvd data) = chan := by
  ext i hi; simp [reqChan, packReq]; grind

@[simp] theorem reqRsvd_packReq (rop chan : Nibble) (rsvd : Byte) (data : Half) :
    reqRsvd (packReq rop chan rsvd data) = rsvd := by
  ext i hi; simp [reqRsvd, packReq]; grind

@[simp] theorem reqData_packReq (rop chan : Nibble) (rsvd : Byte) (data : Half) :
    reqData (packReq rop chan rsvd data) = data := by
  ext i hi; simp [reqData, packReq]; grind

@[simp] theorem reqRop_packRest (rop : Nibble) (rest : BitVec 28) : reqRop (packRest rop rest) = rop := by
  ext i hi; simp [reqRop, packRest]; grind

@[simp] theorem reqRest_packRest (rop : Nibble) (rest : BitVec 28) : reqRest (packRest rop rest) = rest := by
  ext i hi; simp [reqRest, packRest]; grind

/-- A word is the packing of its four fields. -/
theorem packReq_fields (w : ReqWord) : packReq (reqRop w) (reqChan w) (reqRsvd w) (reqData w) = w := by
  ext i hi; simp [packReq, reqRop, reqChan, reqRsvd, reqData]; grind

/-- A word is the packing of its ROP and its other bits. -/
theorem packRest_fields (w : ReqWord) : packRest (reqRop w) (reqRest w) = w := by
  ext i hi; simp [packRest, reqRop, reqRest]; grind

/-- The sixteen values of a nibble. -/
theorem nibble_cases : ∀ r : Nibble,
    r = 0x0#4 ∨ r = 0x1#4 ∨ r = 0x2#4 ∨ r = 0x3#4 ∨ r = 0x4#4 ∨ r = 0x5#4 ∨ r = 0x6#4 ∨ r = 0x7#4 ∨
    r = 0x8#4 ∨ r = 0x9#4 ∨ r = 0xA#4 ∨ r = 0xB#4 ∨ r = 0xC#4 ∨ r = 0xD#4 ∨ r = 0xE#4 ∨ r = 0xF#4 := by decide

/-- Everything `requestOf` can give: the table of 30_encoding.md R61, row by row. -/
theorem requestOf_cases (rop chan : Nibble) (rsvd : Byte) (data : Half) (rest : BitVec 28) :
    (rop = 0x0#4 ∧ requestOf rop chan rsvd data rest = .reserved0 rest) ∨
    (rop = 0x1#4 ∧ requestOf rop chan rsvd data rest = .write chan rsvd data) ∨
    (rop = 0x2#4 ∧ requestOf rop chan rsvd data rest = .store chan rsvd data) ∨
    (rop = 0x3#4 ∧ requestOf rop chan rsvd data rest = .update chan rsvd data) ∨
    (rop = 0x4#4 ∧ requestOf rop chan rsvd data rest = .powerDown chan rsvd data) ∨
    (rop = 0x5#4 ∧ requestOf rop chan rsvd data rest = .powerOff chan rsvd data) ∨
    (rop = 0x6#4 ∧ requestOf rop chan rsvd data rest = .intRef chan rsvd data) ∨
    (rop = 0x7#4 ∧ requestOf rop chan rsvd data rest = .extRef chan rsvd data) ∨
    (rop = 0x8#4 ∧ requestOf rop chan rsvd data rest = .setAddr chan rsvd data) ∨
    (rop = 0x9#4 ∧ requestOf rop chan rsvd data rest = .setRes chan rsvd data) ∨
    (rop = 0xA#4 ∧ requestOf rop chan rsvd data rest = .setRate chan rsvd data) ∨
    (rop = 0xB#4 ∧ requestOf rop chan rsvd data rest = .reservedB rest) ∨
    (0xC#4 ≤ rop ∧ requestOf rop chan rsvd data rest = .reservedCF rop rest) := by
  rcases nibble_cases rop with
    rfl | rfl | rfl | rfl | rfl | rfl | rfl | rfl | rfl | rfl | rfl | rfl | rfl | rfl | rfl | rfl <;> simp [requestOf]

/-- A request word decodes to a request (opcode_table.json, format REQ32), never to a command byte. -/
theorem requestOf_wf (rop chan : Nibble) (rsvd : Byte) (data : Half) (rest : BitVec 28) :
    (requestOf rop chan rsvd data rest).wf = true := by
  rcases requestOf_cases rop chan rsvd data rest with
    h | h | h | h | h | h | h | h | h | h | h | h | h <;> simp [h.2, Instr.wf]
  simpa using h.1

/-! ### Command bytes (30_encoding.md R66) -/

@[simp] theorem cmdOpc_packCmd (opc sel : Nibble) : cmdOpc (packCmd opc sel) = opc := by
  ext i hi; simp [cmdOpc, packCmd]; grind

@[simp] theorem cmdSel_packCmd (opc sel : Nibble) : cmdSel (packCmd opc sel) = sel := by
  ext i hi; simp [cmdSel, packCmd]; grind

end Sys2Proof
end

