-- ==== Sys2Proof/Laws/State.lean ====
section
/-! SUPPORT. One lemma per field per update: what each operation on the state leaves in each field. -/

namespace Sys2Proof.Machine

open Sys2Proof

/-! ### The port and the trace -/

@[simp] theorem tSendAll_eq (f : List Byte) (s : State) :
    tSendAll f s = { s with port := s.port ++ f.map .tSend } := by
  induction f generalizing s with
  | nil => simp [tSendAll]
  | cons b f ih => simp [tSendAll, ih, tSend]

@[simp] theorem respond_eq (r : Response) (s : State) : respond r s = { s with trace := s.trace ++ [.rsp r] } := rfl

/-! ### ACCEPT of a frame operation -/

/-- Everything `launch` does. -/
theorem launch_eq (f : List Byte) (s : State) :
    launch f s =
      { s with
        txn := some ⟨s.cfgAddr, s.cfgRate, f⟩
        busy := true
        tret := none
        port := s.port ++ Txn.prims ⟨s.cfgAddr, s.cfgRate, f⟩
        trace := s.trace ++ [.txn ⟨s.cfgAddr, s.cfgRate, f⟩] } := by
  simp [launch, record, tBegin, tEnd, Txn.prims]

@[simp] theorem launch_cfgAddr (f : List Byte) (s : State) : (launch f s).cfgAddr = s.cfgAddr := by
  rw [launch_eq]
@[simp] theorem launch_cfgRes (f : List Byte) (s : State) : (launch f s).cfgRes = s.cfgRes := by rw [launch_eq]
@[simp] theorem launch_cfgRate (f : List Byte) (s : State) : (launch f s).cfgRate = s.cfgRate := by
  rw [launch_eq]
@[simp] theorem launch_busy (f : List Byte) (s : State) : (launch f s).busy = true := by rw [launch_eq]
@[simp] theorem launch_txn (f : List Byte) (s : State) :
    (launch f s).txn = some ⟨s.cfgAddr, s.cfgRate, f⟩ := by rw [launch_eq]
@[simp] theorem launch_reqValid (f : List Byte) (s : State) : (launch f s).reqValid = s.reqValid := by
  rw [launch_eq]
@[simp] theorem launch_reqWord (f : List Byte) (s : State) : (launch f s).reqWord = s.reqWord := by
  rw [launch_eq]
@[simp] theorem launch_tret (f : List Byte) (s : State) : (launch f s).tret = none := by rw [launch_eq]
@[simp] theorem launch_trace (f : List Byte) (s : State) :
    (launch f s).trace = s.trace ++ [.txn ⟨s.cfgAddr, s.cfgRate, f⟩] := by rw [launch_eq]
@[simp] theorem launch_port (f : List Byte) (s : State) :
    (launch f s).port = s.port ++ Txn.prims ⟨s.cfgAddr, s.cfgRate, f⟩ := by rw [launch_eq]
@[simp] theorem launch_abandoned (f : List Byte) (s : State) : (launch f s).abandoned = s.abandoned := by
  rw [launch_eq]
@[simp] theorem launch_turns (f : List Byte) (s : State) : (launch f s).turns = s.turns := by rw [launch_eq]

/-! ### COMPLETE -/

@[simp] theorem complete_cfgAddr (ts : TStatus) (s : State) : (complete ts s).cfgAddr = s.cfgAddr := rfl
@[simp] theorem complete_cfgRes (ts : TStatus) (s : State) : (complete ts s).cfgRes = s.cfgRes := rfl
@[simp] theorem complete_cfgRate (ts : TStatus) (s : State) : (complete ts s).cfgRate = s.cfgRate := rfl
@[simp] theorem complete_busy (ts : TStatus) (s : State) : (complete ts s).busy = false := rfl
@[simp] theorem complete_txn (ts : TStatus) (s : State) : (complete ts s).txn = none := rfl
@[simp] theorem complete_reqValid (ts : TStatus) (s : State) : (complete ts s).reqValid = s.reqValid := rfl
@[simp] theorem complete_reqWord (ts : TStatus) (s : State) : (complete ts s).reqWord = s.reqWord := rfl
@[simp] theorem complete_tret (ts : TStatus) (s : State) : (complete ts s).tret = none := rfl
@[simp] theorem complete_trace (ts : TStatus) (s : State) :
    (complete ts s).trace = s.trace ++ [.rsp (.xfer ts)] := rfl
@[simp] theorem complete_port (ts : TStatus) (s : State) : (complete ts s).port = s.port := rfl
@[simp] theorem complete_abandoned (ts : TStatus) (s : State) : (complete ts s).abandoned = s.abandoned := rfl
@[simp] theorem complete_turns (ts : TStatus) (s : State) : (complete ts s).turns = s.turns := rfl

/-! ### TDONE -/

/-- `tdone` can touch the returned status only. -/
theorem tdone_cases (ts : TStatus) (s : State) :
    (s.busy = true ∧ s.tret = none ∧ tdone ts s = { s with tret := some ts }) ∨
    (¬(s.busy = true ∧ s.tret = none) ∧ tdone ts s = s) := by
  by_cases h : s.busy = true ∧ s.tret = none
  · exact .inl ⟨h.1, h.2, by simp [tdone, h]⟩
  · exact .inr ⟨h, by simp only [tdone, if_neg h]⟩

@[simp] theorem tdone_cfgAddr (ts : TStatus) (s : State) : (tdone ts s).cfgAddr = s.cfgAddr := by
  unfold tdone; split <;> rfl
@[simp] theorem tdone_cfgRes (ts : TStatus) (s : State) : (tdone ts s).cfgRes = s.cfgRes := by
  unfold tdone; split <;> rfl
@[simp] theorem tdone_cfgRate (ts : TStatus) (s : State) : (tdone ts s).cfgRate = s.cfgRate := by
  unfold tdone; split <;> rfl
@[simp] theorem tdone_busy (ts : TStatus) (s : State) : (tdone ts s).busy = s.busy := by
  unfold tdone; split <;> rfl
@[simp] theorem tdone_txn (ts : TStatus) (s : State) : (tdone ts s).txn = s.txn := by
  unfold tdone; split <;> rfl
@[simp] theorem tdone_reqValid (ts : TStatus) (s : State) : (tdone ts s).reqValid = s.reqValid := by
  unfold tdone; split <;> rfl
@[simp] theorem tdone_reqWord (ts : TStatus) (s : State) : (tdone ts s).reqWord = s.reqWord := by
  unfold tdone; split <;> rfl
@[simp] theorem tdone_trace (ts : TStatus) (s : State) : (tdone ts s).trace = s.trace := by
  unfold tdone; split <;> rfl
@[simp] theorem tdone_port (ts : TStatus) (s : State) : (tdone ts s).port = s.port := by
  unfold tdone; split <;> rfl
@[simp] theorem tdone_abandoned (ts : TStatus) (s : State) : (tdone ts s).abandoned = s.abandoned := by
  unfold tdone; split <;> rfl
@[simp] theorem tdone_turns (ts : TStatus) (s : State) : (tdone ts s).turns = s.turns := by
  unfold tdone; split <;> rfl

/-- `tdoneLate` can touch the list of abandoned transactions only, and marks one of them answered. -/
theorem tdoneLate_cases (k : Nat) (ts : TStatus) (s : State) :
    (∃ a, s.abandoned[k]? = some a ∧
      tdoneLate k ts s = { s with abandoned := s.abandoned.set k { a with answered := true } }) ∨
    (s.abandoned[k]? = none ∧ tdoneLate k ts s = s) := by
  unfold tdoneLate
  cases h : s.abandoned[k]? with
  | some a => exact .inl ⟨a, rfl, rfl⟩
  | none => exact .inr ⟨rfl, rfl⟩

@[simp] theorem tdoneLate_cfgAddr (k : Nat) (ts : TStatus) (s : State) :
    (tdoneLate k ts s).cfgAddr = s.cfgAddr := by unfold tdoneLate; split <;> rfl
@[simp] theorem tdoneLate_cfgRes (k : Nat) (ts : TStatus) (s : State) :
    (tdoneLate k ts s).cfgRes = s.cfgRes := by unfold tdoneLate; split <;> rfl
@[simp] theorem tdoneLate_cfgRate (k : Nat) (ts : TStatus) (s : State) :
    (tdoneLate k ts s).cfgRate = s.cfgRate := by unfold tdoneLate; split <;> rfl
@[simp] theorem tdoneLate_busy (k : Nat) (ts : TStatus) (s : State) : (tdoneLate k ts s).busy = s.busy := by
  unfold tdoneLate; split <;> rfl
@[simp] theorem tdoneLate_txn (k : Nat) (ts : TStatus) (s : State) : (tdoneLate k ts s).txn = s.txn := by
  unfold tdoneLate; split <;> rfl
@[simp] theorem tdoneLate_reqValid (k : Nat) (ts : TStatus) (s : State) :
    (tdoneLate k ts s).reqValid = s.reqValid := by unfold tdoneLate; split <;> rfl
@[simp] theorem tdoneLate_reqWord (k : Nat) (ts : TStatus) (s : State) :
    (tdoneLate k ts s).reqWord = s.reqWord := by unfold tdoneLate; split <;> rfl
@[simp] theorem tdoneLate_tret (k : Nat) (ts : TStatus) (s : State) : (tdoneLate k ts s).tret = s.tret := by
  unfold tdoneLate; split <;> rfl
@[simp] theorem tdoneLate_trace (k : Nat) (ts : TStatus) (s : State) : (tdoneLate k ts s).trace = s.trace := by
  unfold tdoneLate; split <;> rfl
@[simp] theorem tdoneLate_port (k : Nat) (ts : TStatus) (s : State) : (tdoneLate k ts s).port = s.port := by
  unfold tdoneLate; split <;> rfl
@[simp] theorem tdoneLate_turns (k : Nat) (ts : TStatus) (s : State) : (tdoneLate k ts s).turns = s.turns := by
  unfold tdoneLate; split <;> rfl
@[simp] theorem tdoneLate_abandoned_length (k : Nat) (ts : TStatus) (s : State) :
    (tdoneLate k ts s).abandoned.length = s.abandoned.length := by
  unfold tdoneLate; split <;> simp

/-! ### The Requester's moves -/

@[simp] theorem presentWord_eq (w : ReqWord) (s : State) :
    presentWord w s = { s with reqValid := true, reqWord := w } := rfl
@[simp] theorem withdrawWord_eq (s : State) : withdrawWord s = { s with reqValid := false } := rfl

/-! ### Reset -/

@[simp] theorem resetAct_cfgAddr (n : Nat) (s : State) : (resetAct n s).cfgAddr = 0x73#7 := rfl
@[simp] theorem resetAct_cfgRes (n : Nat) (s : State) : (resetAct n s).cfgRes = .r12 := rfl
@[simp] theorem resetAct_cfgRate (n : Nat) (s : State) : (resetAct n s).cfgRate = .k100 := rfl
@[simp] theorem resetAct_busy (n : Nat) (s : State) : (resetAct n s).busy = false := rfl
@[simp] theorem resetAct_txn (n : Nat) (s : State) : (resetAct n s).txn = none := rfl
@[simp] theorem resetAct_reqValid (n : Nat) (s : State) : (resetAct n s).reqValid = s.reqValid := rfl
@[simp] theorem resetAct_reqWord (n : Nat) (s : State) : (resetAct n s).reqWord = s.reqWord := rfl
@[simp] theorem resetAct_tret (n : Nat) (s : State) : (resetAct n s).tret = none := rfl
@[simp] theorem resetAct_trace (n : Nat) (s : State) : (resetAct n s).trace = s.trace := rfl
@[simp] theorem resetAct_port (n : Nat) (s : State) : (resetAct n s).port = s.port := rfl
@[simp] theorem resetAct_abandoned (n : Nat) (s : State) : (resetAct n s).abandoned = abandon n s := rfl
@[simp] theorem resetAct_turns (n : Nat) (s : State) : (resetAct n s).turns = s.turns := rfl

@[simp] theorem abandon_of_none (n : Nat) (s : State) (h : s.txn = none) : abandon n s = s.abandoned := by
  simp [abandon, h]

theorem abandon_of_some (n : Nat) (s : State) (t : Txn) (h : s.txn = some t) :
    abandon n s = s.abandoned ++ [⟨t, t.frame.take n, s.tret.isSome⟩] := by
  simp [abandon, h]

end Sys2Proof.Machine
end

