-- ==== Sys2Proof/Laws/Ops.lean ====
section
/-! SUPPORT. One lemma per shared operation that says everything it can do. -/

namespace Sys2Proof.Machine

open Sys2Proof

/-! ### ACCEPT -/

theorem accept_of_busy (body : State → State) (s : State) (h : s.busy = true) : accept body s = .next s := by
  simp [accept, h]

theorem accept_of_ready (body : State → State) (s : State) (h : s.busy = false) :
    accept body s = .next (body { s with reqValid := false }) := by simp [accept, h]

theorem accept_next (body : State → State) (s t : State) (h : accept body s = .next t) :
    (s.busy = true ∧ t = s) ∨ (s.busy = false ∧ t = body { s with reqValid := false }) := by
  cases hb : s.busy with
  | true => exact .inl ⟨rfl, by simpa [accept, hb] using h.symm⟩
  | false => exact .inr ⟨rfl, by simpa [accept, hb] using h.symm⟩

theorem acceptFrame_of_ready (op : FrameOp) (chan : Nibble) (code : Half) (s : State) (h : s.busy = false) :
    acceptFrame op chan code s = .next (launch (frame op chan code s.cfgRes) { s with reqValid := false }) :=
  accept_of_ready _ s h

theorem acceptSetter_of_ready (write : State → State) (s : State) (h : s.busy = false) :
    acceptSetter write s = .next (respond .done (write { s with reqValid := false })) :=
  accept_of_ready (fun s => respond .done (write s)) s h

theorem acceptIllegal_of_ready (s : State) (h : s.busy = false) :
    acceptIllegal s = .next (respond .illegal { s with reqValid := false }) := accept_of_ready _ s h

theorem execSetAddr_of_ready (chan : Nibble) (rsvd : Byte) (data : Half) (s : State) (h : s.busy = false) :
    exec (.setAddr chan rsvd data) s
      = .next { s with reqValid := false, cfgAddr := addrOf data, trace := s.trace ++ [.rsp .done] } :=
  acceptSetter_of_ready (writeAddr (addrOf data)) s h

theorem execSetRes_of_ready (chan : Nibble) (rsvd : Byte) (data : Half) (s : State) (h : s.busy = false) :
    exec (.setRes chan rsvd data) s
      = .next { s with reqValid := false, cfgRes := resOf data, trace := s.trace ++ [.rsp .done] } :=
  acceptSetter_of_ready (writeRes (resOf data)) s h

theorem execSetRate_of_ready (chan : Nibble) (rsvd : Byte) (data : Half) (s : State) (h : s.busy = false) :
    exec (.setRate chan rsvd data) s
      = .next { s with reqValid := false, cfgRate := rateOf data, trace := s.trace ++ [.rsp .done] } :=
  acceptSetter_of_ready (writeRate (rateOf data)) s h

/-- What each frame request runs. -/
theorem exec_of_frameRequest {i : Instr} {op : FrameOp} {chan : Nibble} {code : Half}
    (h : frameRequest i = some (op, chan, code)) (s : State) : exec i s = acceptFrame op chan code s := by
  cases i <;> simp [frameRequest] at h <;> obtain ⟨rfl, rfl, rfl⟩ := h <;> rfl

/-- What an accepted request leaves, by kind of request. -/
inductive Accepted (s : State) (i : Instr) : State → Prop where
  | frame (op : FrameOp) (chan : Nibble) (code : Half) (hi : frameRequest i = some (op, chan, code)) :
      Accepted s i (launch (frame op chan code s.cfgRes) { s with reqValid := false })
  | setAddr (chan : Nibble) (rsvd : Byte) (data : Half) (hi : i = .setAddr chan rsvd data) :
      Accepted s i { s with reqValid := false, cfgAddr := addrOf data, trace := s.trace ++ [.rsp .done] }
  | setRes (chan : Nibble) (rsvd : Byte) (data : Half) (hi : i = .setRes chan rsvd data) :
      Accepted s i { s with reqValid := false, cfgRes := resOf data, trace := s.trace ++ [.rsp .done] }
  | setRate (chan : Nibble) (rsvd : Byte) (data : Half) (hi : i = .setRate chan rsvd data) :
      Accepted s i { s with reqValid := false, cfgRate := rateOf data, trace := s.trace ++ [.rsp .done] }
  | illegal (hi : (∃ rest, i = .reserved0 rest) ∨ (∃ rest, i = .reservedB rest) ∨ ∃ rop rest, i = .reservedCF rop rest) :
      Accepted s i { s with reqValid := false, trace := s.trace ++ [.rsp .illegal] }

/-- A frame operation that answers a next state waits or is accepted. -/
theorem acceptFrame_next {i : Instr} {op : FrameOp} {chan : Nibble} {code : Half} {s t : State}
    (hi : frameRequest i = some (op, chan, code)) (h : acceptFrame op chan code s = .next t) :
    (s.busy = true ∧ t = s) ∨ (s.busy = false ∧ Accepted s i t) := by
  obtain ⟨hb, rfl⟩ | ⟨hb, rfl⟩ := accept_next _ s t h
  · exact .inl ⟨hb, rfl⟩
  · exact .inr ⟨hb, .frame op chan code hi⟩

/-- A setter or a reserved word that answers a next state waits or is accepted. -/
theorem accept_next_of {i : Instr} (body : State → State) {s t : State}
    (hbody : Accepted s i (body { s with reqValid := false })) (h : accept body s = .next t) :
    (s.busy = true ∧ t = s) ∨ (s.busy = false ∧ Accepted s i t) := by
  obtain ⟨hb, rfl⟩ | ⟨hb, rfl⟩ := accept_next _ s t h
  · exact .inl ⟨hb, rfl⟩
  · exact .inr ⟨hb, hbody⟩

/-- Every instruction that answers a next state either waits, or is accepted. -/
theorem exec_next (i : Instr) (s t : State) (h : exec i s = .next t) :
    (s.busy = true ∧ t = s) ∨ (s.busy = false ∧ Accepted s i t) := by
  cases i with
  | write c r d => exact acceptFrame_next rfl h
  | store c r d => exact acceptFrame_next rfl h
  | update c r d => exact acceptFrame_next rfl h
  | powerDown c r d => exact acceptFrame_next rfl h
  | powerOff c r d => exact acceptFrame_next rfl h
  | intRef c r d => exact acceptFrame_next rfl h
  | extRef c r d => exact acceptFrame_next rfl h
  | setAddr c r d => exact accept_next_of (fun s => respond .done (writeAddr (addrOf d) s)) (.setAddr c r d rfl) h
  | setRes c r d => exact accept_next_of (fun s => respond .done (writeRes (resOf d) s)) (.setRes c r d rfl) h
  | setRate c r d => exact accept_next_of (fun s => respond .done (writeRate (rateOf d) s)) (.setRate c r d rfl) h
  | reserved0 r => exact accept_next_of (respond .illegal) (.illegal (.inl ⟨r, rfl⟩)) h
  | reservedB r => exact accept_next_of (respond .illegal) (.illegal (.inr (.inl ⟨r, rfl⟩))) h
  | reservedCF p r => exact accept_next_of (respond .illegal) (.illegal (.inr (.inr ⟨p, r, rfl⟩))) h
  | _ => cases h

/-- A command byte never answers a next state. -/
theorem exec_of_command (i : Instr) (s : State) (h : isRequest i = false) :
    ∃ r, exec i s = .refused r := by
  cases i <;> first | exact ⟨_, rfl⟩ | cases h

/-! ### The agents' moves -/

/-- Everything the Block's move can do when it answers a next state. -/
theorem blockStep_next (s t : State) (h : blockStep s = .next t) :
    (∃ ts, s.busy = true ∧ s.tret = some ts ∧ t = complete ts s) ∨
    (s.busy = false ∧ s.reqValid = true ∧ Accepted s (decodeRequest s.reqWord) t) ∨
    (((s.busy = true ∧ s.tret = none) ∨ (s.busy = false ∧ s.reqValid = false)) ∧ t = s) := by
  unfold blockStep at h
  cases hb : s.busy with
  | true =>
    cases hr : s.tret with
    | some ts => exact .inl ⟨ts, rfl, rfl, by simpa [hb, hr] using h.symm⟩
    | none => exact .inr (.inr ⟨.inl ⟨rfl, rfl⟩, by simpa [hb, hr] using h.symm⟩)
  | false =>
    cases hv : s.reqValid with
    | true =>
      simp only [hb, hv, if_true, Bool.false_eq_true, if_false] at h
      obtain ⟨hb', -⟩ | ⟨-, ha⟩ := exec_next _ s t h
      · simp [hb] at hb'
      · exact .inr (.inl ⟨rfl, rfl, ha⟩)
    | false => exact .inr (.inr ⟨.inr ⟨rfl, rfl⟩, by simpa [hb, hv] using h.symm⟩)

/-- No turn of the chip answers a next state: the decoder gives a command byte no request (U13). -/
theorem decodeCommand_not_request (f : FrameFormat) (b : Byte) (i : Instr) (h : decodeCommand f b = .ok i) :
    isRequest i = false := by
  revert h
  unfold decodeCommand
  simp only
  repeat' split
  all_goals (intro h; first | (injection h with h; subst h; rfl) | (simp at h))

theorem chipStep_not_next (f : FrameFormat) (b : Byte) (s t : State) : chipStep f b s ≠ .next t := by
  intro h
  unfold chipStep at h
  split at h
  · next i hd =>
    obtain ⟨r, hr⟩ := exec_of_command i s (decodeCommand_not_request f b i hd)
    rw [hr] at h; simp at h
  · simp at h

/-- The state in which the Block moves at a step: the turn taken off the script. -/
def State.popped (s : State) : State := { s with turns := s.turns.tail }

@[simp] theorem popped_cfgAddr (s : State) : s.popped.cfgAddr = s.cfgAddr := rfl
@[simp] theorem popped_cfgRes (s : State) : s.popped.cfgRes = s.cfgRes := rfl
@[simp] theorem popped_cfgRate (s : State) : s.popped.cfgRate = s.cfgRate := rfl
@[simp] theorem popped_busy (s : State) : s.popped.busy = s.busy := rfl
@[simp] theorem popped_txn (s : State) : s.popped.txn = s.txn := rfl
@[simp] theorem popped_reqValid (s : State) : s.popped.reqValid = s.reqValid := rfl
@[simp] theorem popped_reqWord (s : State) : s.popped.reqWord = s.reqWord := rfl
@[simp] theorem popped_tret (s : State) : s.popped.tret = s.tret := rfl
@[simp] theorem popped_trace (s : State) : s.popped.trace = s.trace := rfl
@[simp] theorem popped_port (s : State) : s.popped.port = s.port := rfl
@[simp] theorem popped_abandoned (s : State) : s.popped.abandoned = s.abandoned := rfl
@[simp] theorem popped_abandon (n : Nat) (s : State) : abandon n s.popped = abandon n s := rfl
@[simp] theorem popped_turns (s : State) : s.popped.turns = s.turns.tail := rfl

/-- One of the moves a step can make when it answers a next state. `u` is the state with the turn taken off. -/
inductive Moved (s u t : State) : Prop where
  | complete (ts : TStatus) :
      s.blockMoves → u.busy = true → u.tret = some ts → t = Machine.complete ts u → Moved s u t
  | accept :
      s.blockMoves → u.busy = false → u.reqValid = true → Accepted u (decodeRequest u.reqWord) t → Moved s u t
  | wait :
      s.blockMoves → ((u.busy = true ∧ u.tret = none) ∨ (u.busy = false ∧ u.reqValid = false)) → t = u →
      Moved s u t
  | present (w : ReqWord) : s.turns.head? = some (.present w) → t = presentWord w u → Moved s u t
  | withdraw : s.turns.head? = some .withdraw → t = withdrawWord u → Moved s u t
  | tdone (ts : TStatus) : s.turns.head? = some (.tdone ts) → t = Machine.tdone ts u → Moved s u t
  | late (k : Nat) (ts : TStatus) : s.turns.head? = some (.late k ts) → t = tdoneLate k ts u → Moved s u t
  | reset (n : Nat) : s.turns.head? = some (.reset n) → t = resetAct n u → Moved s u t

theorem moved_of_blockStep (s u t : State) (hm : s.blockMoves) (h : blockStep u = .next t) : Moved s u t := by
  obtain ⟨ts, hb, hr, ht⟩ | ⟨hb, hv, ha⟩ | ⟨hw, ht⟩ := blockStep_next u t h
  · exact .complete ts hm hb hr ht
  · exact .accept hm hb hv ha
  · exact .wait hm hw ht

/-- Everything a step can do when it answers a next state. -/
theorem step_next (s t : State) (h : step s = .next t) : Moved s s.popped t := by
  unfold step at h
  split at h
  · next hs =>
    have hp : s.popped = s := by simp only [State.popped, hs, List.tail_nil]; rw [← hs]
    rw [hp]
    exact moved_of_blockStep s s t (.inl hs) h
  · next turn rest hs =>
    have hp : s.popped = { s with turns := rest } := by simp [State.popped, hs]
    rw [hp]
    have hh : s.turns.head? = some turn := by simp [hs]
    cases turn with
    | block => exact moved_of_blockStep s _ t (.inr hh) h
    | present w => exact .present w hh (by simpa [takeTurn] using h.symm)
    | withdraw => exact .withdraw hh (by simpa [takeTurn] using h.symm)
    | tdone ts => exact .tdone ts hh (by simpa [takeTurn] using h.symm)
    | late k ts => exact .late k ts hh (by simpa [takeTurn] using h.symm)
    | reset n => exact .reset n hh (by simpa [takeTurn] using h.symm)
    | bypass w => simp [takeTurn, bypassPort] at h
    | atChip f b => exact absurd h (chipStep_not_next f b _ t)

/-! ### Runs -/

/-- A property that holds at the start and that every step keeps holds wherever a run arrives. -/
theorem reaches_induction (P : State → Prop) (keep : ∀ s t, P s → step s = .next t → P t) {s t : State}
    (hr : Reaches s t) (hs : P s) : P t := by
  induction hr with
  | refl => exact hs
  | tail _ hstep ih => exact keep _ _ ih hstep

end Sys2Proof.Machine
end

