-- ==== Sys2Proof/Laws/PerInstr.lean ====
section
/-! SUPPORT. A statement about every instruction as syntax: its encoding lies in its row of spec/opcode_table.json. -/

namespace Sys2Proof.Laws.RowBits

open Sys2Proof

/-- The encoding of a well-formed instruction has the row's width and the row's fixed bits. -/
def Statement (i : Instr) : Prop := i.wf = true → (tableRow i).holds (encode i) = true

/-! ### The masked bits of each format -/

/-- The mask 0xF0000000 keeps bits 31:28 (R60). -/
theorem ropMask_getLsbD : ∀ i < 32, (0xF0000000#32).getLsbD i = decide (28 ≤ i) := by decide

/-- The mask 0xF0 keeps bits 7:4 (R66). -/
theorem opcMask_getLsbD : ∀ i < 8, (0xF0#8).getLsbD i = decide (4 ≤ i) := by decide

theorem and_ropMask (rop : Nibble) (rest : BitVec 28) : packRest rop rest &&& 0xF0000000#32 = rop ++ 0#28 := by
  ext i hi
  have h := ropMask_getLsbD i hi
  rw [BitVec.getLsbD_eq_getElem hi] at h
  simp [packRest, h]
  grind

theorem and_opcMask (opc sel : Nibble) : packCmd opc sel &&& 0xF0#8 = opc ++ 0#4 := by
  ext i hi
  have h := opcMask_getLsbD i hi
  rw [BitVec.getLsbD_eq_getElem hi] at h
  simp [packCmd, h]
  grind

theorem packReq_eq_packRest (rop chan : Nibble) (rsvd : Byte) (data : Half) :
    packReq rop chan rsvd data = packRest rop (chan ++ rsvd ++ data : BitVec 28) := by
  ext i hi; simp [packReq, packRest]; grind

/-- A word lies in the row that fixes bits 31:28 to its ROP. -/
theorem rest_holds (rop : Nibble) (rest : BitVec 28) (v : Nat) (hv : v = (rop ++ 0#28 : BitVec 32).toNat) :
    TableRow.holds ⟨32, 0xF0000000, v⟩ (.req (packRest rop rest)) = true := by
  have h := congrArg BitVec.toNat (and_ropMask rop rest)
  rw [BitVec.toNat_and] at h
  simp [TableRow.holds, Encoded.bits, hv, ← h]

theorem req_holds (rop chan : Nibble) (rsvd : Byte) (data : Half) (v : Nat)
    (hv : v = (rop ++ 0#28 : BitVec 32).toNat) :
    TableRow.holds ⟨32, 0xF0000000, v⟩ (.req (packReq rop chan rsvd data)) = true := by
  rw [packReq_eq_packRest]
  exact rest_holds rop _ v hv

/-- A packed command byte lies in the row that fixes bits 7:4 to its OPC. -/
theorem cmd_holds (f : FrameFormat) (opc sel : Nibble) (v : Nat) (hv : v = (opc ++ 0#4 : BitVec 8).toNat) :
    TableRow.holds ⟨8, 0xF0, v⟩ (.cmd f (packCmd opc sel)) = true := by
  have h := congrArg BitVec.toNat (and_opcMask opc sel)
  rw [BitVec.toNat_and] at h
  simp [TableRow.holds, Encoded.bits, hv, ← h]

/-- The mask 0xC0000000 keeps bits 31:30: the row of ROP 0xC to 0xF. -/
theorem rest_holds_cf (rop : Nibble) (rest : BitVec 28) (h : 0xC#4 ≤ rop) :
    TableRow.holds ⟨32, 0xC0000000, 0xC0000000⟩ (.req (packRest rop rest)) = true := by
  have hm : ∀ r : Nibble, 0xC#4 ≤ r → (r ++ 0#28 : BitVec 32) &&& 0xC0000000#32 = 0xC0000000#32 := by decide
  have hand := congrArg (· &&& 0xC0000000#32) (and_ropMask rop rest)
  simp only [BitVec.and_assoc, hm rop h] at hand
  have ht := congrArg BitVec.toNat hand
  rw [BitVec.toNat_and] at ht
  simpa [TableRow.holds, Encoded.bits] using ht

/-! ### One lemma per instruction -/

theorem write (chan : Nibble) (rsvd : Byte) (data : Half) : Statement (.write chan rsvd data) :=
  fun _ => req_holds _ _ _ _ _ rfl
theorem store (chan : Nibble) (rsvd : Byte) (data : Half) : Statement (.store chan rsvd data) :=
  fun _ => req_holds _ _ _ _ _ rfl
theorem update (chan : Nibble) (rsvd : Byte) (data : Half) : Statement (.update chan rsvd data) :=
  fun _ => req_holds _ _ _ _ _ rfl
theorem powerDown (chan : Nibble) (rsvd : Byte) (data : Half) : Statement (.powerDown chan rsvd data) :=
  fun _ => req_holds _ _ _ _ _ rfl
theorem powerOff (chan : Nibble) (rsvd : Byte) (data : Half) : Statement (.powerOff chan rsvd data) :=
  fun _ => req_holds _ _ _ _ _ rfl
theorem intRef (chan : Nibble) (rsvd : Byte) (data : Half) : Statement (.intRef chan rsvd data) :=
  fun _ => req_holds _ _ _ _ _ rfl
theorem extRef (chan : Nibble) (rsvd : Byte) (data : Half) : Statement (.extRef chan rsvd data) :=
  fun _ => req_holds _ _ _ _ _ rfl
theorem setAddr (chan : Nibble) (rsvd : Byte) (data : Half) : Statement (.setAddr chan rsvd data) :=
  fun _ => req_holds _ _ _ _ _ rfl
theorem setRes (chan : Nibble) (rsvd : Byte) (data : Half) : Statement (.setRes chan rsvd data) :=
  fun _ => req_holds _ _ _ _ _ rfl
theorem setRate (chan : Nibble) (rsvd : Byte) (data : Half) : Statement (.setRate chan rsvd data) :=
  fun _ => req_holds _ _ _ _ _ rfl
theorem reserved0 (rest : BitVec 28) : Statement (.reserved0 rest) := fun _ => rest_holds _ _ _ rfl
theorem reservedB (rest : BitVec 28) : Statement (.reservedB rest) := fun _ => rest_holds _ _ _ rfl
theorem reservedCF (rop : Nibble) (rest : BitVec 28) : Statement (.reservedCF rop rest) :=
  fun h => rest_holds_cf rop rest (by simpa [Instr.wf] using h)
theorem cmdWriteInput (sel : Nibble) : Statement (.cmdWriteInput sel) := fun _ => cmd_holds _ _ _ _ rfl
theorem cmdUpdate (sel : Nibble) : Statement (.cmdUpdate sel) := fun _ => cmd_holds _ _ _ _ rfl
theorem cmdWriteUpdateAll (sel : Nibble) : Statement (.cmdWriteUpdateAll sel) := fun _ => cmd_holds _ _ _ _ rfl
theorem cmdWriteUpdateOne (sel : Nibble) : Statement (.cmdWriteUpdateOne sel) := fun _ => cmd_holds _ _ _ _ rfl
theorem cmdPowerDownOne (sel : Nibble) : Statement (.cmdPowerDownOne sel) := fun _ => cmd_holds _ _ _ _ rfl
theorem cmdPowerDownAll : Statement .cmdPowerDownAll := by unfold Statement; decide
theorem cmdInternalRef : Statement .cmdInternalRef := by unfold Statement; decide
theorem cmdExternalRef : Statement .cmdExternalRef := by unfold Statement; decide
theorem cmdNoOp (sel : Nibble) : Statement (.cmdNoOp sel) := fun _ => cmd_holds _ _ _ _ rfl

end Sys2Proof.Laws.RowBits
end

