-- ==== Sys2Proof/Laws/Run.lean ====
section
/-! SUPPORT. Steps and runs, one move at a time. -/

namespace Sys2Proof.Machine

open Sys2Proof

/-- A step takes the next turn of the script. -/
theorem step_of_turn {s : State} {t : Turn} {rest : List Turn} (h : s.turns = t :: rest) :
    step s = takeTurn t { s with turns := rest } := by simp only [step, h]

/-- With no turn left the Block moves. -/
theorem step_of_no_turn {s : State} (h : s.turns = []) : step s = blockStep s := by simp only [step, h]

/-- When the Block moves, the step is the Block's, with its turn taken off. -/
theorem step_of_blockMoves {s : State} (hm : s.blockMoves) : step s = blockStep s.popped := by
  cases h : s.turns with
  | nil =>
    have hp : s.popped = s := by simp only [State.popped, h, List.tail_nil]; rw [← h]
    rw [step_of_no_turn h, hp]
  | cons t rest =>
    have ht : t = .block := by simpa [State.blockMoves, h] using hm
    rw [step_of_turn h, ht]
    simp only [takeTurn, State.popped, h, List.tail_cons]

/-- A ready block whose turn it is accepts the frame request at its port. -/
theorem step_of_accepted_frame {s : State} {op : FrameOp} {chan : Nibble} {code : Half} {rest : List Turn}
    (ht : s.turns = .block :: rest) (hb : s.busy = false) (hv : s.reqValid = true)
    (hi : frameRequest (decodeRequest s.reqWord) = some (op, chan, code)) :
    step s = .next (launch (frame op chan code s.cfgRes) { s with turns := rest, reqValid := false }) := by
  have h := acceptFrame_of_ready op chan code { s with turns := rest } hb
  rw [step_of_turn ht]
  simp only [takeTurn, blockStep, hb, hv, Bool.false_eq_true, if_false, if_true]
  rw [exec_of_frameRequest hi]
  rw [hb, hv] at h
  exact h

@[simp] theorem run_zero (s : State) : Host.Core.run Sys2Proof.core 0 s = .next s := rfl

/-- A run whose first step answers a next state goes on from it. -/
theorem run_of_next {s t : State} (n : Nat) (h : step s = .next t) :
    Host.Core.run Sys2Proof.core (n + 1) s = Host.Core.run Sys2Proof.core n t := by
  have h' : Sys2Proof.core.step s = .next t := h
  simp only [Host.Core.run, h']

/-- A run whose first step faults ends there. -/
theorem run_of_fault {s : State} {f : Fault} (n : Nat) (h : step s = .fault f) :
    Host.Core.run Sys2Proof.core (n + 1) s = .fault f := by
  have h' : Sys2Proof.core.step s = .fault f := h
  simp only [Host.Core.run, h']

/-- A run whose first step is refused ends there. -/
theorem run_of_refused {s : State} {r : Refusal} (n : Nat) (h : step s = .refused r) :
    Host.Core.run Sys2Proof.core (n + 1) s = .refused r := by
  have h' : Sys2Proof.core.step s = .refused r := h
  simp only [Host.Core.run, h']

end Sys2Proof.Machine
end

