-- ==== Sys2Proof/Tests/Slice0.lean ====
section
/-! SUPPORT. Small tests. Expected results are the spec's own vectors (95_test_vectors.md) or are written out by hand
from the rule named; each test runs one step. The witnesses at the end meet the hypotheses of the obligations. -/

namespace Sys2Proof.Tests

open Sys2Proof Sys2Proof.Machine

/-! ### WellFormed -/

theorem test_wf_refuses_low_rop : (Instr.reservedCF 0xB#4 0#28).wf = false := by decide
theorem test_wf_accepts_rops : (Instr.reservedCF 0xC#4 0#28).wf = true ∧ (Instr.reservedCF 0xF#4 0#28).wf = true := by
  decide

/-! ### Decoding: one word per constructor, written from R60, R61, R66 and R67 -/

theorem test_decode_write :
    decodeTableWord 32 0b00011111101010110000100000000000 = some (.write 0xF#4 0xAB#8 0x0800#16) := by decide
theorem test_decode_store :
    decodeTableWord 32 0b00100001000000000000001000000000 = some (.store 0x1#4 0x00#8 512#16) := by decide
theorem test_decode_update :
    decodeTableWord 32 0b00111111000000000001001000110100 = some (.update 0xF#4 0x00#8 0x1234#16) := by decide
theorem test_decode_powerDown :
    decodeTableWord 32 0b01000010000000000000000000000000 = some (.powerDown 0x2#4 0x00#8 0#16) := by decide
theorem test_decode_powerOff :
    decodeTableWord 32 0b01011111111111111111111111111111 = some (.powerOff 0xF#4 0xFF#8 0xFFFF#16) := by decide
theorem test_decode_intRef :
    decodeTableWord 32 0b01100001000000000000000000000000 = some (.intRef 0x1#4 0x00#8 0#16) := by decide
theorem test_decode_extRef :
    decodeTableWord 32 0b01110000000000001111111111111111 = some (.extRef 0x0#4 0x00#8 0xFFFF#16) := by decide
theorem test_decode_setAddr :
    decodeTableWord 32 0b10000000000000000000000000010000 = some (.setAddr 0x0#4 0x00#8 0x10#16) := by decide
theorem test_decode_setRes :
    decodeTableWord 32 0b10010000000000000000000000001010 = some (.setRes 0x0#4 0x00#8 10#16) := by decide
theorem test_decode_setRate :
    decodeTableWord 32 0b10100000000000000000000110010000 = some (.setRate 0x0#4 0x00#8 400#16) := by decide
theorem test_decode_reserved0 : decodeTableWord 32 0b0 = some (.reserved0 0#28) := by decide
theorem test_decode_reservedB :
    decodeTableWord 32 0b10110000000000000000000000000001 = some (.reservedB 1#28) := by decide
theorem test_decode_reservedCF :
    decodeTableWord 32 0b11110001001000110100010101100111 = some (.reservedCF 0xF#4 0x1234567#28) := by decide
theorem test_decode_cmdWriteInput : decodeTableWord 8 0b00001111 = some (.cmdWriteInput 0xF#4) := by decide
theorem test_decode_cmdUpdate : decodeTableWord 8 0b00011110 = some (.cmdUpdate 0xE#4) := by decide
theorem test_decode_cmdWriteUpdateAll : decodeTableWord 8 0b00100001 = some (.cmdWriteUpdateAll 0x1#4) := by decide
theorem test_decode_cmdWriteUpdateOne : decodeTableWord 8 0b00110111 = some (.cmdWriteUpdateOne 0x7#4) := by decide
theorem test_decode_cmdPowerDownOne : decodeTableWord 8 0b01000010 = some (.cmdPowerDownOne 0x2#4) := by decide
theorem test_decode_cmdPowerDownAll : decodeTableWord 8 0b00000101 = some .cmdPowerDownAll := by decide
theorem test_decode_cmdInternalRef : decodeTableWord 8 0b01101111 = some .cmdInternalRef := by decide
theorem test_decode_cmdExternalRef : decodeTableWord 8 0b01111111 = some .cmdExternalRef := by decide
theorem test_decode_cmdNoOp : decodeTableWord 8 0b11110000 = some (.cmdNoOp 0x0#4) := by decide

/-- R70: leading a data frame, 0x05 is STORE's byte. -/
theorem test_decode_alias_in_data_frame :
    (decodeCommand .data 0x05#8).toOption = some (.cmdWriteInput 0x5#4) := by decide
/-- R69: 0x50, 0x90 and 0x60 are no commands of the table. -/
theorem test_decode_rejects : decodeTableWord 8 0x50 = none ∧ decodeTableWord 8 0x90 = none ∧
    decodeTableWord 8 0x60 = none := by decide

/-! ### Datapath (95_test_vectors.md V1, V2) -/

theorem test_enc : enc 0x3#4 0xF#4 = 0x3F#8 ∧ enc 0x0#4 0x5#4 = 0x05#8 ∧ enc 0x1#4 0xE#4 = 0x1E#8 := by decide
theorem test_scale_r12 : scale 2748#16 .r12 = (0xAB#8, 0xC0#8) ∧ scale 4096#16 .r12 = (0xFF#8, 0xF0#8) := by decide
theorem test_scale_r10 : scale 682#16 .r10 = (0xAA#8, 0x80#8) ∧ scale 1024#16 .r10 = (0xFF#8, 0xC0#8) := by decide
theorem test_scale_r8 : scale 3#16 .r8 = (0x03#8, 0x00#8) ∧ scale 256#16 .r8 = (0xFF#8, 0x00#8) := by decide

/-! ### One step per request (95_test_vectors.md V3 to V6) -/

/-- A state with a word at the port. -/
def ready (w : ReqWord) : State := { State.reset with reqValid := true, reqWord := w }

/-- The state after a step, if it answers one. -/
def after (s : State) : Option State :=
  match step s with
  | .next t => some t
  | .fault _ => none
  | .refused _ => none

/-- The transaction in flight after a step. -/
def txnAfter (s : State) : Option Txn := (after s).bind State.txn

/-- The configuration after a step, and whether the block is ready. -/
def cfgAfter (s : State) : Option (BusAddr × Res × Rate × Bool) :=
  (after s).map fun t => (t.cfgAddr, t.cfgRes, t.cfgRate, t.reqReady)

theorem test_write_full_scale : txnAfter (ready 0x10000FFF#32) = some ⟨0x73#7, .k100, [0x30#8, 0xFF#8, 0xF0#8]⟩ := by
  decide
theorem test_write_at_8_bits :
    txnAfter { ready 0x10000100#32 with cfgRes := .r8, cfgAddr := 0x12#7 }
      = some ⟨0x12#7, .k100, [0x30#8, 0xFF#8, 0x00#8]⟩ := by decide
theorem test_store_at_10_bits :
    txnAfter { ready 0x21000200#32 with cfgRes := .r10 } = some ⟨0x73#7, .k100, [0x01#8, 0x80#8, 0x00#8]⟩ := by decide
theorem test_store_alias : txnAfter (ready 0x25000001#32) = some ⟨0x73#7, .k100, [0x05#8, 0x00#8, 0x10#8]⟩ := by
  decide
theorem test_update : txnAfter (ready 0x3F001234#32) = some ⟨0x73#7, .k100, [0x1F#8]⟩ := by decide
theorem test_powerDown : txnAfter (ready 0x42000000#32) = some ⟨0x73#7, .k100, [0x42#8]⟩ := by decide
theorem test_powerOff : txnAfter { ready 0x5FFFFFFF#32 with cfgRes := .r8 } = some ⟨0x73#7, .k100, [0x05#8]⟩ := by
  decide
theorem test_intRef : txnAfter (ready 0x61000000#32) = some ⟨0x73#7, .k100, [0x6F#8]⟩ := by decide
theorem test_extRef :
    txnAfter { ready 0x7000FFFF#32 with cfgRate := .k400 } = some ⟨0x73#7, .k400, [0x7F#8]⟩ := by decide
theorem test_setAddr : cfgAfter (ready 0x8FFF0010#32) = some (0x10#7, .r12, .k100, true) := by decide
theorem test_setAddr_illegal :
    cfgAfter { ready 0x80000090#32 with cfgAddr := 0x10#7 } = some (0x73#7, .r12, .k100, true) := by decide
theorem test_setRes : cfgAfter (ready 0x9000000A#32) = some (0x73#7, .r10, .k100, true) := by decide
theorem test_setRes_illegal :
    cfgAfter { ready 0x90000010#32 with cfgRes := .r8 } = some (0x73#7, .r12, .k100, true) := by decide
theorem test_setRate : cfgAfter (ready 0xA0000190#32) = some (0x73#7, .r12, .k400, true) := by decide
theorem test_setRate_illegal :
    cfgAfter { ready 0xA0000191#32 with cfgRate := .k400 } = some (0x73#7, .r12, .k100, true) := by decide
theorem test_reserved0 : after (ready 0#32) = some { State.reset with trace := [.rsp .illegal] } := by decide
theorem test_reservedB : (after (ready 0xB0000000#32)).map State.trace = some [.rsp .illegal] := by decide
theorem test_reservedCF : (after (ready 0xF1234567#32)).map State.txn = some none := by decide
theorem test_chip_command_refused : after (State.reset.withFetchWord 8 0x1F) = none := by decide
theorem test_withFetchWord : txnAfter (State.reset.withFetchWord 32 0x31000000) = some ⟨0x73#7, .k100, [0x11#8]⟩ := by
  decide

/-! ### The agents -/

/-- WRITE A, 4095 in flight: the state after its ACCEPT from reset (95_test_vectors.md P4, step 1). -/
def inFlight : State :=
  { State.reset with
    reqWord := 0x10000FFF#32
    busy := true
    txn := some ⟨0x73#7, .k100, [0x30#8, 0xFF#8, 0xF0#8]⟩
    port := [.tBegin 0x73#7 .k100, .tSend 0x30#8, .tSend 0xFF#8, .tSend 0xF0#8, .tEnd]
    trace := [.txn ⟨0x73#7, .k100, [0x30#8, 0xFF#8, 0xF0#8]⟩] }

theorem test_accept : after (ready 0x10000FFF#32) = some inFlight := by decide
theorem test_hang : after inFlight = some inFlight := by decide
/-- R27, R30: with REQ_VALID = 0 nothing is accepted, whatever stands in REQ_WORD. -/
theorem test_no_valid_word :
    after { State.reset with reqWord := 0x80000010#32 } = some { State.reset with reqWord := 0x80000010#32 } := by decide
theorem test_complete (ts : TStatus) :
    (after { inFlight with tret := some ts }).map State.responses = some [.xfer ts] := rfl
theorem test_setter_waits :
    (after { inFlight with reqValid := true, reqWord := 0x80000010#32 }).map State.cfgAddr = some 0x73#7 := by decide
/-- 95_test_vectors.md P5, step 2. -/
theorem test_reset_in_flight :
    (after { inFlight with turns := [.reset 2], cfgRes := .r8 }).map
      (fun t => (t.busy, t.txn, t.cfgRes, t.trace.length, t.abandoned))
    = some (false, none, .r12, 1,
      [⟨⟨0x73#7, .k100, [0x30#8, 0xFF#8, 0xF0#8]⟩, [0x30#8, 0xFF#8], false⟩]) := by decide
theorem test_bypass_faults : after { inFlight with turns := [.bypass 0x10000FFF#32] } = none := by decide

/-! ### Assembler (30_encoding.md R75, R76) -/

theorem test_assemble_write : assemble "WRITE BOTH, 1023".toList = some 0x1F0003FF#32 := by decide
theorem test_assemble_setRate : assemble "SET_RATE 400".toList = some 0xA0000190#32 := by decide
theorem test_assemble_refuses : assemble "WRITE A, 65536".toList = none ∧ assemble "NOP".toList = none := by decide

/-! ### Witnesses: the hypotheses of the obligations are met -/

theorem witness_DecodeOfEncodeIsIdentity :
    (Instr.reservedCF 0xC#4 0#28).wf = true ∧ (Instr.cmdWriteInput 0x5#4).wf = true := by decide
theorem witness_UndefinedCommandBytesAreRejected :
    (0x8#4 ≤ 0x8#4 ∧ 0x8#4 ≤ 0xE#4) ∧ (0x8#4 ≤ 0xE#4 ∧ 0xE#4 ≤ 0xE#4) ∧
    ((0x6#4 = 0x6#4 ∨ 0x6#4 = 0x7#4) ∧ 0x0#4 ≠ 0xF#4) ∧ ((0x7#4 = 0x6#4 ∨ 0x7#4 = 0x7#4) ∧ 0xE#4 ≠ 0xF#4) := by decide
theorem witness_DecoderFollowsTheTable :
    (tableRow (.reservedCF 0xC#4 0#28)).holds (.req 0xFFFFFFFF#32) = true ∧
    (tableRow (.cmdNoOp 0#4)).holds (.cmd .control 0xFF#8) = true := by decide
theorem witness_ScaleSaturatesAndIsMonotone :
    2 ^ Res.r8.bits ≤ (256#16).toNat ∧ (255#16).toNat ≤ 2 ^ Res.r8.bits - 1 ∧ (255#16).toNat ≤ (256#16).toNat := by
  decide
theorem witness_ScaleOnUnclampedCodes : (4095#16).toNat ≤ 2 ^ Res.r12.bits - 1 := by decide
theorem witness_FrameDependencies : FrameOp.update ≠ .write ∧ FrameOp.update ≠ .store := by decide
theorem witness_OnlyPowerOffByteIsAliased :
    (frame .store 0x5#4 1#16 .r12).head? = (frame .powerOff 0x0#4 0#16 .r8).head? ∧ FrameOp.store ≠ .powerOff := by
  decide
/-- For every statement about a request accepted by a ready block. -/
theorem witness_ready : State.reset.busy = false := by decide
theorem witness_IllegalAddressEqualsGlobal : (0x0090#16).toNat ∉ [0x10, 0x11, 0x12, 0x73] := by decide
theorem witness_SetterGovernsNextFrame :
    State.reset.busy = false ∧ frameRequest (.write 0xF#4 0#8 1023#16) = some (.write, 0xF#4, 1023#16) := by decide
theorem witness_ReservedWordsAnswerIllegal :
    State.reset.busy = false ∧ (0x0#4 = 0x0#4 ∨ 0xB#4 ≤ 0x0#4) ∧ (0xB#4 = 0x0#4 ∨ 0xB#4 ≤ 0xB#4) := by decide
theorem witness_RequestsWaitWhileBusy :
    isRequest (.setAddr 0#4 0#8 0x10#16) = true ∧ inFlight.busy = true := by decide
theorem witness_AcceptedWordIsTakenFromThePort :
    isRequest (.reserved0 0#28) = true ∧ State.reset.busy = false := by decide
theorem witness_StepRunsTheDecodedInstruction :
    (ready 0#32).turns = [] ∧ (ready 0#32).busy = false ∧ (ready 0#32).reqValid = true ∧
    { ready 0#32 with turns := [.block] }.turns = [.block] ∧
    { ready 0#32 with turns := [.atChip .control 0x05#8] }.turns = [.atChip .control 0x05#8] ∧
    (decodeCommand .control 0x05#8).toOption = some .cmdPowerDownAll := by decide
theorem witness_PlacedWordRunsNext :
    decodeTableWord 32 0 = some (.reserved0 0#28) ∧ decodeTableWord 8 0x05 = some .cmdPowerDownAll := by decide
theorem witness_BlockCompletesOrWaits (ts : TStatus) :
    { inFlight with tret := some ts, turns := [.block] }.blockMoves ∧ { inFlight with tret := some ts }.busy = true ∧
    inFlight.blockMoves ∧ inFlight.turns = [] ∧ inFlight.busy = true ∧ inFlight.tret = none ∧
    State.reset.blockMoves ∧ State.reset.turns = [] ∧ State.reset.busy = false ∧ State.reset.reqValid = false :=
  ⟨.inr rfl, rfl, .inl rfl, rfl, rfl, rfl, .inl rfl, rfl, rfl, rfl⟩
theorem witness_UnansweredBlockHangs :
    inFlight.busy = true ∧ inFlight.tret = none ∧
    ∀ t ∈ [Turn.block, .present 0x80000010#32, .withdraw], t.silent = true := by decide
theorem witness_TransportReturnsOneStatus (ts : TStatus) :
    { inFlight with turns := [.tdone ts] }.turns = [.tdone ts] ∧ inFlight.busy = true ∧ inFlight.tret = none ∧
    State.reset.busy = false := ⟨rfl, rfl, rfl, rfl⟩
theorem witness_RequesterMovesOnlyItsSignals :
    { State.reset with turns := [.present 0#32] }.turns = [.present 0#32] ∧
    { State.reset with turns := [.withdraw] }.turns = [.withdraw] := by decide
theorem witness_PortBypassFaults : { State.reset with turns := [.bypass 0#32] }.turns = [.bypass 0#32] := by decide
/-- A busy block and an idle one. -/
theorem witness_ResetAbandonsTheTransaction :
    { inFlight with turns := [.reset 0] }.turns = [.reset 0] ∧
    inFlight.txn = some ⟨0x73#7, .k100, [0x30#8, 0xFF#8, 0xF0#8]⟩ ∧
    { State.reset with turns := [.reset 3] }.turns = [.reset 3] ∧ State.reset.txn = none := by decide
/-- With one abandoned transaction, number 0. -/
theorem witness_LateStatusIsIgnored (ts : TStatus) :
    let a : Abandoned := ⟨⟨0x73#7, .k100, [0x10#8]⟩, [], false⟩
    let s : State := { State.reset with abandoned := [a], turns := [.late 0 ts] }
    s.turns = [.late 0 ts] ∧ s.abandoned[0]? = some a ∧ s.abandoned[1]? = none := ⟨rfl, rfl, rfl⟩
theorem witness_StepKeepsInv : inFlight.Inv ∧ step inFlight = .next inFlight := by
  refine ⟨⟨by decide, by decide, by decide, ?_, by decide, by decide⟩, rfl⟩
  intro t h
  cases h
  decide
theorem witness_StepKeepsWholeTransactions : inFlight.PortInv ∧ step inFlight = .next inFlight := ⟨rfl, rfl⟩
theorem witness_StepKeepsResponseOrder : inFlight.OrderInv ∧ step inFlight = .next inFlight := by
  refine ⟨⟨fun _ => ⟨_, rfl, rfl⟩, ?_, ?_⟩, rfl⟩
  · intro ts h; cases h
  · intro k ts h; cases k <;> cases h
theorem witness_StepKeepsTransactionAccount : inFlight.AccountInv ∧ step inFlight = .next inFlight :=
  ⟨⟨by decide, by decide⟩, rfl⟩
theorem witness_OnlySettersWriteConfiguration :
    (after (ready 0x80000010#32)).map State.cfgAddr = some 0x10#7 ∧
    (after (ready 0x9000000A#32)).map State.cfgRes = some .r10 ∧
    (after (ready 0xA0000190#32)).map State.cfgRate = some .k400 := by decide
theorem witness_BusyFollowsTheTransaction (ts : TStatus) :
    (after (ready 0x10000FFF#32)).map State.busy = some true ∧
    (after { inFlight with tret := some ts }).map State.busy = some false ∧
    (after inFlight).map State.busy = some true := ⟨rfl, rfl, rfl⟩
theorem witness_OrdinaryRunsNeverStop (ts : TStatus) :
    ∀ t ∈ [Turn.block, .tdone ts, .reset 1, .late 0 ts], t.ordinary = true := by simp [Turn.ordinary]
theorem witness_StatusesInfluenceNothing (ts ts' : TStatus) :
    State.blank { inFlight with tret := some ts } = State.blank { inFlight with tret := some ts' } := rfl
theorem witness_FrameOperationCompletes (ts : TStatus) :
    (ready 0x10000FFF#32).busy = false ∧ (ready 0x10000FFF#32).reqValid = true ∧
    frameRequest (decodeRequest (ready 0x10000FFF#32).reqWord) = some (.write, 0x0#4, 4095#16) ∧
    { ready 0x10000FFF#32 with turns := [.block, .tdone ts, .block] }.turns = [.block, .tdone ts, .block] :=
  ⟨by decide, by decide, by decide, rfl⟩
theorem witness_SetterWaitsForTransaction :
    frameRequest (decodeRequest (ready 0x10000FFF#32).reqWord) = some (.write, 0x0#4, 4095#16) ∧
    decodeRequest 0x80000010#32 = .setAddr 0x0#4 0x00#8 0x10#16 := by decide
theorem witness_HandlesShareNoState :
    [State.reset, inFlight][1]? = some inFlight ∧ step inFlight = .next inFlight := ⟨rfl, rfl⟩

end Sys2Proof.Tests
end

section
/-! SUPPORT. To run a command byte is refused (00_scope.md R6, R17; 30_encoding.md R69). -/

namespace Sys2Proof.Machine

open Sys2Proof

/-- R67's rows "emitted by" a frame operation are the chip's part (93 U13), whichever operation emits them. -/
theorem exec_emittedCommand (op : FrameOp) (ch : Nibble) (s : State) :
    exec (emittedCommand op ch) s = .refused .chipNotModelled := by
  cases op <;> rfl

theorem exec_cmdWriteUpdateAll (sel : Nibble) (s : State) :
    exec (.cmdWriteUpdateAll sel) s = .refused .neverEmitted := rfl

theorem exec_cmdNoOp (sel : Nibble) (s : State) : exec (.cmdNoOp sel) s = .refused .neverEmitted := rfl

/-- Settles O36: each of the seven rows the block emits is the command of one frame operation, and the two rows left
have their own refusal. -/
theorem chipCommandsAreRefused : Obligations.ChipCommandsAreRefused := by
  intro sel s
  have emitted (op : FrameOp) := exec_emittedCommand op sel s
  exact ⟨emitted .store, emitted .update, exec_cmdWriteUpdateAll sel s, emitted .write, emitted .powerDown,
    emitted .powerOff, emitted .intRef, emitted .extRef, exec_cmdNoOp sel s⟩

end Sys2Proof.Machine
end

section
/-! SUPPORT. What the block computes is legal: the addresses SET_ADDR stores (10_state.md R23) and the frames a frame
operation sends (30_encoding.md R69, R71, 40_datapath.md R108). -/

namespace Sys2Proof.Machine

open Sys2Proof

theorem addrOf_mem_legalAddrs (data : Half) : addrOf data ∈ legalAddrs := by
  unfold addrOf
  split
  · next h => rcases h with rfl | rfl | rfl | rfl <;> decide
  · decide

@[simp] theorem cmdOpc_enc (op ch : Nibble) : cmdOpc (enc op ch) = op := cmdOpc_packCmd op ch

/-- R108: at every resolution the low data byte is a multiple of 16. -/
theorem scale_lo_mod_sixteen (code : Half) (res : Res) : (scale code res).2.toNat % 16 = 0 := by
  rw [scale_lo_toNat]
  cases res <;> simp only [Res.bits] <;> omega

@[simp] theorem legalDataBytes_scale (code : Half) (res : Res) :
    legalDataBytes (scale code res).1 (scale code res).2 = true := by
  have hlow : (scale code res).2.extractLsb' 0 4 = 0#4 := by
    apply BitVec.eq_of_toNat_eq
    simpa [BitVec.extractLsb'_toNat] using scale_lo_mod_sixteen code res
  simp [legalDataBytes, hlow]

theorem legalFrame_frame (op : FrameOp) (ch : Nibble) (code : Half) (res : Res) :
    legalFrame (frame op ch code res) = true := by
  cases op with
  | write | store => rw [frame_data _ ch code res rfl]; simp [legalFrame, cmdsel]
  | update | powerDown => rw [frame_control _ ch code res rfl]; simp [legalFrame, cmdsel]
  | powerOff | intRef | extRef => rw [frame_control _ ch code res rfl]; simp only [cmdsel]; decide

end Sys2Proof.Machine
end

section
/-! SUPPORT. Every step keeps `State.Inv`: one lemma per operation, then one case per move of `step_next`. -/

namespace Sys2Proof.Machine

open Sys2Proof

/-- The port's request signals and the script stand in no clause of the invariant. -/
theorem inv_of_signals {s : State} (h : s.Inv) (v : Bool) (w : ReqWord) (l : List Turn) :
    State.Inv { s with reqValid := v, reqWord := w, turns := l } :=
  ⟨h.addr_legal, h.txn_iff_busy, h.tret_busy, h.txn_legal, h.trace_legal, h.abandoned_prefix⟩

theorem legalEvent_of_mem_append {l : List Event} {e : Event} (hl : ∀ x ∈ l, legalEvent x = true)
    (he : legalEvent e = true) : ∀ x ∈ l ++ [e], legalEvent x = true := by
  simpa [or_imp, forall_and] using ⟨hl, he⟩

theorem inv_launch {s : State} (h : s.Inv) {f : List Byte} (hf : legalFrame f = true) : (launch f s).Inv := by
  have hlegal : legalTxn ⟨s.cfgAddr, s.cfgRate, f⟩ = true := by simp [legalTxn, h.addr_legal, hf]
  exact
    { addr_legal := by simpa using h.addr_legal
      txn_iff_busy := by simp
      tret_busy := by simp
      txn_legal := by simpa using hlegal
      trace_legal := by simpa using legalEvent_of_mem_append (e := .txn _) h.trace_legal hlegal
      abandoned_prefix := by simpa using h.abandoned_prefix }

/-- A response with no transaction, with any legal configuration written. -/
theorem inv_answer {s : State} (h : s.Inv) {a : BusAddr} (ha : a ∈ legalAddrs) (res : Res) (rate : Rate)
    (r : Response) (v : Bool) :
    State.Inv { s with
      cfgAddr := a, cfgRes := res, cfgRate := rate, reqValid := v, trace := s.trace ++ [.rsp r] } :=
  { h with addr_legal := ha, trace_legal := legalEvent_of_mem_append h.trace_legal rfl }

theorem inv_accepted {s t : State} {i : Instr} (h : s.Inv) (ha : Accepted s i t) : t.Inv := by
  cases ha with
  | frame op chan code hi =>
    exact inv_launch (inv_of_signals h false s.reqWord s.turns) (legalFrame_frame op chan code s.cfgRes)
  | setAddr chan rsvd data hi => exact inv_answer h (addrOf_mem_legalAddrs data) s.cfgRes s.cfgRate .done false
  | setRes chan rsvd data hi => exact inv_answer h h.addr_legal (resOf data) s.cfgRate .done false
  | setRate chan rsvd data hi => exact inv_answer h h.addr_legal s.cfgRes (rateOf data) .done false
  | illegal hi => exact inv_answer h h.addr_legal s.cfgRes s.cfgRate .illegal false

theorem inv_complete {s : State} (h : s.Inv) (ts : TStatus) : (complete ts s).Inv :=
  { addr_legal := h.addr_legal
    txn_iff_busy := by simp
    tret_busy := by simp
    txn_legal := by simp
    trace_legal := legalEvent_of_mem_append h.trace_legal rfl
    abandoned_prefix := h.abandoned_prefix }

theorem inv_tdone {s : State} (h : s.Inv) (ts : TStatus) : (tdone ts s).Inv := by
  obtain ⟨hb, -, heq⟩ | ⟨-, heq⟩ := tdone_cases ts s
  · rw [heq]
    exact { h with tret_busy := fun _ => hb }
  · rwa [heq]

theorem inv_tdoneLate {s : State} (h : s.Inv) (k : Nat) (ts : TStatus) : (tdoneLate k ts s).Inv := by
  obtain ⟨a, hk, heq⟩ | ⟨-, heq⟩ := tdoneLate_cases k ts s
  · rw [heq]
    refine { h with abandoned_prefix := fun b hb => ?_ }
    obtain hb | rfl := List.mem_or_eq_of_mem_set hb
    · exact h.abandoned_prefix b hb
    · exact h.abandoned_prefix a (List.mem_of_getElem? hk)
  · rwa [heq]

/-- What a reset abandons was legal in flight, and the bytes it draws begin its frame (R191). -/
theorem abandon_prefix {s : State} (h : s.Inv) (n : Nat) :
    ∀ a ∈ abandon n s, legalTxn a.txn = true ∧ a.reached <+: a.txn.frame := by
  cases ht : s.txn with
  | none => simpa [ht] using h.abandoned_prefix
  | some t =>
    rw [abandon_of_some n s t ht]
    intro a ha
    obtain ha | ha := List.mem_append.mp ha
    · exact h.abandoned_prefix a ha
    · rw [List.mem_singleton.mp ha]
      exact ⟨h.txn_legal t ht, List.take_prefix n t.frame⟩

theorem inv_resetAct {s : State} (h : s.Inv) (n : Nat) : (resetAct n s).Inv :=
  { addr_legal := by rw [resetAct_cfgAddr]; decide
    txn_iff_busy := by simp
    tret_busy := by simp
    txn_legal := by simp
    trace_legal := h.trace_legal
    abandoned_prefix := abandon_prefix h n }

/-- Settles O48: the state less its turn meets the invariant, and each move keeps it. -/
theorem stepKeepsInv : Obligations.StepKeepsInv := by
  intro s t hs hstep
  have hu : s.popped.Inv := inv_of_signals hs s.reqValid s.reqWord s.turns.tail
  cases step_next s t hstep with
  | complete ts _ _ _ ht => exact ht ▸ inv_complete hu ts
  | accept _ _ _ ha => exact inv_accepted hu ha
  | wait _ _ ht => exact ht ▸ hu
  | present w _ ht => exact ht ▸ inv_of_signals hu true w s.popped.turns
  | withdraw _ ht => exact ht ▸ inv_of_signals hu false s.popped.reqWord s.popped.turns
  | tdone ts _ ht => exact ht ▸ inv_tdone hu ts
  | late k ts _ ht => exact ht ▸ inv_tdoneLate hu k ts
  | reset n _ ht => exact ht ▸ inv_resetAct hu n

end Sys2Proof.Machine
end

section
/-! SUPPORT. What a request does to the request port: it waits while the block is busy (10_state.md R27, R195) and
leaves the port once accepted (log entry 2). -/

namespace Sys2Proof.Machine

open Sys2Proof

theorem acceptFrame_gated (op : FrameOp) (chan : Nibble) (code : Half) :
    ∃ body, ∀ s, acceptFrame op chan code s = accept body s := ⟨_, fun _ => rfl⟩

theorem acceptSetter_gated (write : State → State) : ∃ body, ∀ s, acceptSetter write s = accept body s :=
  ⟨_, fun _ => rfl⟩

theorem acceptIllegal_gated : ∃ body, ∀ s, acceptIllegal s = accept body s := ⟨_, fun _ => rfl⟩

/-- Every request runs behind the gate of ACCEPT (R30). -/
theorem exec_request {i : Instr} (h : isRequest i = true) : ∃ body, ∀ s, exec i s = accept body s := by
  cases i with
  | write | store | update | powerDown | powerOff | intRef | extRef => exact acceptFrame_gated _ _ _
  | setAddr | setRes | setRate => exact acceptSetter_gated _
  | reserved0 | reservedB | reservedCF => exact acceptIllegal_gated
  | _ => cases h

theorem exec_request_of_busy {i : Instr} {s : State} (hi : isRequest i = true) (hb : s.busy = true) :
    exec i s = .next s := by
  obtain ⟨body, hbody⟩ := exec_request hi
  rw [hbody, accept_of_busy body s hb]

theorem exec_request_of_ready {i : Instr} {s : State} (hi : isRequest i = true) (hb : s.busy = false) :
    ∃ t, exec i s = .next t ∧ Accepted s i t := by
  obtain ⟨body, hbody⟩ := exec_request hi
  have hexec : exec i s = .next (body { s with reqValid := false }) := by
    rw [hbody, accept_of_ready body s hb]
  obtain ⟨hb', -⟩ | ⟨-, ha⟩ := exec_next i s _ hexec
  · simp [hb] at hb'
  · exact ⟨_, hexec, ha⟩

theorem accepted_signals {s t : State} {i : Instr} (h : Accepted s i t) :
    t.reqValid = false ∧ t.reqWord = s.reqWord ∧ t.turns = s.turns := by
  cases h with
  | frame => simp
  | setAddr | setRes | setRate | illegal => exact ⟨rfl, rfl, rfl⟩

/-- Settles O34: the gate of ACCEPT is closed while `BUSY = 1`. -/
theorem requestsWaitWhileBusy : Obligations.RequestsWaitWhileBusy := by
  intro i s hi hb
  exact ⟨exec_request_of_busy hi hb, by simp [State.reqReady, hb]⟩

/-- Settles O35: whatever kind of request is accepted, it takes its word from the port. -/
theorem acceptedWordIsTakenFromThePort : Obligations.AcceptedWordIsTakenFromThePort := by
  intro i s hi hb
  obtain ⟨t, hexec, ha⟩ := exec_request_of_ready hi hb
  exact ⟨t, hexec, accepted_signals ha⟩

end Sys2Proof.Machine
end

section
/-! SUPPORT. The Block's move in each of its cases, and a step of each agent (10_state.md R27, R30 to R32). -/

namespace Sys2Proof.Machine

open Sys2Proof

/-! ### The Block's move -/

theorem blockStep_of_returned {s : State} {ts : TStatus} (hb : s.busy = true) (hr : s.tret = some ts) :
    blockStep s = .next (complete ts s) := by simp [blockStep, hb, hr]

theorem blockStep_of_unanswered {s : State} (hb : s.busy = true) (hr : s.tret = none) :
    blockStep s = .next s := by simp [blockStep, hb, hr]

theorem blockStep_of_presented {s : State} (hb : s.busy = false) (hv : s.reqValid = true) :
    blockStep s = exec (decodeRequest s.reqWord) s := by simp [blockStep, hb, hv]

theorem blockStep_of_no_word {s : State} (hb : s.busy = false) (hv : s.reqValid = false) :
    blockStep s = .next s := by simp [blockStep, hb, hv]

/-- Neither ACCEPT nor COMPLETE is enabled (R202). -/
theorem blockStep_of_waiting {s : State}
    (h : (s.busy = true ∧ s.tret = none) ∨ (s.busy = false ∧ s.reqValid = false)) : blockStep s = .next s := by
  obtain ⟨hb, hr⟩ | ⟨hb, hv⟩ := h
  · exact blockStep_of_unanswered hb hr
  · exact blockStep_of_no_word hb hv

theorem blockMoves_of_turn {s : State} {rest : List Turn} (h : s.turns = .block :: rest) : s.blockMoves :=
  .inr (by rw [h]; rfl)

theorem popped_of_turn {s : State} {m : Turn} {rest : List Turn} (h : s.turns = m :: rest) :
    s.popped = { s with turns := rest } := by simp [State.popped, h]

theorem run_of_fixed {s : State} (h : step s = .next s) (n : Nat) : Host.Core.run Sys2Proof.core n s = .next s := by
  induction n with
  | zero => rfl
  | succ n ih => rw [run_of_next n h, ih]

/-- Settles O39: the cases of the Block's move, at the state less its turn. -/
theorem blockCompletesOrWaits : Obligations.BlockCompletesOrWaits := by
  intro s hm
  have hstep := step_of_blockMoves hm
  refine ⟨fun hb ts hr => ?_, fun hb hr => ?_, fun hb hv => ?_, fun ht hw n => ?_⟩
  · rw [hstep, blockStep_of_returned (s := s.popped) hb hr]; rfl
  · rw [hstep, blockStep_of_unanswered (s := s.popped) hb hr]; rfl
  · rw [hstep, blockStep_of_no_word (s := s.popped) hb hv]; rfl
  · exact run_of_fixed (by rw [step_of_no_turn ht, blockStep_of_waiting hw]) n

/-! ### The Requester and the Transport -/

theorem step_of_present {s : State} {w : ReqWord} {rest : List Turn} (h : s.turns = .present w :: rest) :
    step s = .next { s with reqValid := true, reqWord := w, turns := rest } := by rw [step_of_turn h]; rfl

theorem step_of_withdraw {s : State} {rest : List Turn} (h : s.turns = .withdraw :: rest) :
    step s = .next { s with reqValid := false, turns := rest } := by rw [step_of_turn h]; rfl

theorem step_of_tdone {s : State} {ts : TStatus} {rest : List Turn} (h : s.turns = .tdone ts :: rest)
    (hb : s.busy = true) (hr : s.tret = none) : step s = .next { s with tret := some ts, turns := rest } := by
  rw [step_of_turn h]; simp [takeTurn, tdone, hb, hr]

theorem step_of_tdone_not_enabled {s : State} {ts : TStatus} {rest : List Turn} (h : s.turns = .tdone ts :: rest)
    (hn : ¬(s.busy = true ∧ s.tret = none)) : step s = .next { s with turns := rest } := by
  rw [step_of_turn h]; simp only [takeTurn, tdone, if_neg hn]

/-- Settles O41: TDONE in the two cases of its enabling condition. -/
theorem transportReturnsOneStatus : Obligations.TransportReturnsOneStatus := by
  intro s ts rest h
  refine ⟨step_of_tdone h, fun hn => step_of_tdone_not_enabled h ?_⟩
  rintro ⟨hb, hr⟩
  simp [hb, hr] at hn

/-- Settles O42: the Requester's two moves. -/
theorem requesterMovesOnlyItsSignals : Obligations.RequesterMovesOnlyItsSignals :=
  fun _ _ _ => ⟨step_of_present, step_of_withdraw⟩

/-! ### Running a word -/

/-- A ready block at its turn runs the word at its port. -/
theorem step_of_presented {s : State} (hm : s.blockMoves) (hb : s.busy = false) (hv : s.reqValid = true) :
    step s = exec (decodeRequest s.reqWord) s.popped := by
  rw [step_of_blockMoves hm, blockStep_of_presented (s := s.popped) hb hv, popped_reqWord]

theorem chipStep_of_decoded {f : FrameFormat} {b : Byte} {i : Instr} (h : decodeCommand f b = .ok i) (s : State) :
    chipStep f b s = exec i s := by simp only [chipStep, h]

theorem step_of_atChip {s : State} {f : FrameFormat} {b : Byte} {rest : List Turn} {i : Instr}
    (h : s.turns = .atChip f b :: rest) (hi : decodeCommand f b = .ok i) :
    step s = exec i { s with turns := rest } := by
  rw [step_of_turn h]
  exact chipStep_of_decoded hi { s with turns := rest }

/-- Settles O37: with no turn left or at its own turn the Block runs the word; at the chip's turn the byte is run. -/
theorem stepRunsTheDecodedInstruction : Obligations.StepRunsTheDecodedInstruction := by
  refine ⟨fun s ht hb hv => ?_, fun s rest ht hb hv => ?_, fun s rest f b i ht hi => step_of_atChip ht hi⟩
  · rw [step_of_no_turn ht, blockStep_of_presented hb hv]
  · rw [step_of_presented (blockMoves_of_turn ht) hb hv, popped_of_turn ht]

theorem decodeTableWord_request {w : Nat} {i : Instr} (h : decodeTableWord 32 w = some i) :
    decodeRequest (BitVec.ofNat 32 w) = i := by
  simpa [decodeTableWord, encodedOfBits, decode, Except.toOption] using h

theorem decodeTableWord_command {w : Nat} {i : Instr} (h : decodeTableWord 8 w = some i) :
    decodeCommand .control (BitVec.ofNat 8 w) = .ok i := by
  cases hd : decodeCommand .control (BitVec.ofNat 8 w) with
  | ok j => simpa [decodeTableWord, encodedOfBits, decode, Except.toOption, hd] using h
  | error e => simp [decodeTableWord, encodedOfBits, decode, Except.toOption, hd] at h

/-- Settles O38: the placed word stands at the port of a ready block, or at the chip, and its turn is next. -/
theorem placedWordRunsNext : Obligations.PlacedWordRunsNext := by
  intro s w i
  refine ⟨fun h => ?_, fun h => ?_⟩
  · have ht : (s.withFetchWord 32 w).turns = .block :: s.turns := rfl
    rw [step_of_presented (blockMoves_of_turn ht) rfl rfl, popped_of_turn ht, ← decodeTableWord_request h]
    rfl
  · exact step_of_atChip (s := s.withFetchWord 8 w) rfl (decodeTableWord_command h)

end Sys2Proof.Machine
end

section
/-! SUPPORT. What a step does to the block's registers, the trace and the port's record: four kinds of step
(10_state.md R23 to R26, R30, R31, R34). -/

namespace Sys2Proof.Machine

open Sys2Proof

/-- The two states agree in the block's registers (R35), the trace and the port's record. -/
structure SameBlock (s t : State) : Prop where
  cfgAddr : t.cfgAddr = s.cfgAddr
  cfgRes : t.cfgRes = s.cfgRes
  cfgRate : t.cfgRate = s.cfgRate
  busy : t.busy = s.busy
  txn : t.txn = s.txn
  trace : t.trace = s.trace
  port : t.port = s.port

/-- A step is a reset, an ACCEPT or a COMPLETE, or it leaves the block as it is. -/
inductive StepKind (s t : State) : Prop where
  | reset (n : Nat) : s.resetMoves → t = resetAct n s.popped → StepKind s t
  | accept : s.acceptMoves → Accepted s.popped (decodeRequest s.reqWord) t → StepKind s t
  | complete (ts : TStatus) :
      s.blockMoves → s.busy = true → s.tret = some ts → t = Machine.complete ts s.popped → StepKind s t
  | quiet : SameBlock s t → StepKind s t

theorem step_kind {s t : State} (h : step s = .next t) : StepKind s t := by
  cases step_next s t h with
  | complete ts hm hb hr ht => exact .complete ts hm hb hr ht
  | accept hm hb hv ha => exact .accept ⟨hm, hb, hv⟩ ha
  | wait _ _ ht => subst ht; exact .quiet ⟨rfl, rfl, rfl, rfl, rfl, rfl, rfl⟩
  | present w _ ht => subst ht; exact .quiet ⟨rfl, rfl, rfl, rfl, rfl, rfl, rfl⟩
  | withdraw _ ht => subst ht; exact .quiet ⟨rfl, rfl, rfl, rfl, rfl, rfl, rfl⟩
  | tdone ts _ ht => subst ht; exact .quiet (by constructor <;> simp)
  | late k ts _ ht => subst ht; exact .quiet (by constructor <;> simp)
  | reset n hn ht => exact .reset n ⟨n, hn⟩ ht

/-! ### What an accepted request writes -/

/-- Each configuration register is kept, or written by its own setter. -/
theorem accepted_config {s t : State} {i : Instr} (h : Accepted s i t) :
    (t.cfgAddr = s.cfgAddr ∨ ∃ c r d, i = .setAddr c r d ∧ t.cfgAddr = addrOf d) ∧
    (t.cfgRes = s.cfgRes ∨ ∃ c r d, i = .setRes c r d ∧ t.cfgRes = resOf d) ∧
    (t.cfgRate = s.cfgRate ∨ ∃ c r d, i = .setRate c r d ∧ t.cfgRate = rateOf d) := by
  cases h with
  | frame => simp
  | setAddr c r d hi => exact ⟨.inr ⟨c, r, d, hi, rfl⟩, .inl rfl, .inl rfl⟩
  | setRes c r d hi => exact ⟨.inl rfl, .inr ⟨c, r, d, hi, rfl⟩, .inl rfl⟩
  | setRate c r d hi => exact ⟨.inl rfl, .inl rfl, .inr ⟨c, r, d, hi, rfl⟩⟩
  | illegal => exact ⟨.inl rfl, .inl rfl, .inl rfl⟩

/-- BUSY is kept, or raised by a frame operation with its transaction in `TXN`. -/
theorem accepted_busy {s t : State} {i : Instr} (h : Accepted s i t) :
    t.busy = s.busy ∨ ∃ op c code, frameRequest i = some (op, c, code) ∧
      t.txn = some ⟨s.cfgAddr, s.cfgRate, Machine.frame op c code s.cfgRes⟩ := by
  cases h with
  | frame op c code hi => exact .inr ⟨op, c, code, hi, by simp⟩
  | setAddr | setRes | setRate | illegal => exact .inl rfl

theorem accepted_trace {s t : State} {i : Instr} (h : Accepted s i t) : ∃ e, t.trace = s.trace ++ [e] := by
  cases h with
  | frame => exact ⟨_, launch_trace _ _⟩
  | setAddr | setRes | setRate | illegal => exact ⟨_, rfl⟩

/-! ### The statements, by the kind of step -/

/-- Settles O53: beside a reset, only an accepted setter leaves a register with another value. -/
theorem onlySettersWriteConfiguration : Obligations.OnlySettersWriteConfiguration := by
  intro s t h
  cases step_kind h with
  | reset _ hr _ => exact ⟨fun _ => .inl hr, fun _ => .inl hr, fun _ => .inl hr⟩
  | accept hm ha =>
    obtain ⟨haddr, hres, hrate⟩ := accepted_config ha
    exact ⟨fun hne => .inr ⟨hm, haddr.resolve_left hne⟩, fun hne => .inr ⟨hm, hres.resolve_left hne⟩,
      fun hne => .inr ⟨hm, hrate.resolve_left hne⟩⟩
  | complete ts _ _ _ ht => simp [ht]
  | quiet hq => exact ⟨fun hne => absurd hq.cfgAddr hne, fun hne => absurd hq.cfgRes hne,
      fun hne => absurd hq.cfgRate hne⟩

/-- Settles O54: ACCEPT starts ready, COMPLETE and reset end ready, and any other step keeps the block as it is. -/
theorem busyFollowsTheTransaction : Obligations.BusyFollowsTheTransaction := by
  intro s t h
  cases step_kind h with
  | reset _ hr ht => simp [ht, hr]
  | accept hm ha =>
    have ⟨_, hready, _⟩ := hm
    have hrise : t.busy = true → ∃ op c code, frameRequest (decodeRequest s.reqWord) = some (op, c, code) ∧
        t.txn = some ⟨s.cfgAddr, s.cfgRate, frame op c code s.cfgRes⟩ := fun hb =>
      (accepted_busy ha).resolve_left (by simp [hready, hb])
    exact ⟨fun _ hb => ⟨hm, hrise hb⟩, by simp [hready], by simp [hready]⟩
  | complete ts hm hb hr ht =>
    have hxfer : t.trace = s.trace ++ [.rsp (.xfer ts)] := by simp [ht]
    exact ⟨by simp [hb], fun _ _ => .inr ⟨hm, ts, hr, hxfer⟩, by simp [ht]⟩
  | quiet hq =>
    exact ⟨fun hs hb => by simp [hq.busy, hs] at hb, fun hs hb => by simp [hq.busy, hs] at hb,
      fun _ _ => ⟨hq.txn, hq.trace, hq.port⟩⟩

/-- Settles O55: ACCEPT and COMPLETE add their one event, and no other step adds any. -/
theorem stepAddsAtMostOneEvent : Obligations.StepAddsAtMostOneEvent := by
  intro s t h
  cases step_kind h with
  | reset _ _ ht => exact .inl (by simp [ht])
  | accept _ ha => exact .inr (accepted_trace (s := s.popped) ha)
  | complete ts _ _ _ ht => exact .inr ⟨.rsp (.xfer ts), by simp [ht]⟩
  | quiet hq => exact .inl hq.trace

end Sys2Proof.Machine
end

section
/-! SUPPORT. Runs of a frame operation, one move at a time (10_state.md R30 to R32, 95_test_vectors.md P4). -/

namespace Sys2Proof.Machine

open Sys2Proof

theorem step_of_completed {s : State} {ts : TStatus} {rest : List Turn} (h : s.turns = .block :: rest)
    (hb : s.busy = true) (hr : s.tret = some ts) : step s = .next (complete ts { s with turns := rest }) := by
  rw [step_of_turn h]
  exact blockStep_of_returned hb hr

theorem step_of_unanswered {s : State} {rest : List Turn} (h : s.turns = .block :: rest) (hb : s.busy = true)
    (hr : s.tret = none) : step s = .next { s with turns := rest } := by
  rw [step_of_turn h]
  exact blockStep_of_unanswered hb hr

theorem step_of_setAddr {s : State} {c : Nibble} {r : Byte} {d : Half} {rest : List Turn}
    (h : s.turns = .block :: rest) (hb : s.busy = false) (hv : s.reqValid = true)
    (hi : decodeRequest s.reqWord = .setAddr c r d) :
    step s = .next { s with
      reqValid := false, cfgAddr := addrOf d, trace := s.trace ++ [.rsp .done], turns := rest } := by
  rw [step_of_presented (blockMoves_of_turn h) hb hv, popped_of_turn h, hi]
  exact execSetAddr_of_ready c r d { s with turns := rest } hb

/-- From a transaction in flight, TDONE and COMPLETE answer it. -/
theorem run_answer {s : State} {ts : TStatus} {rest : List Turn} (h : s.turns = .tdone ts :: .block :: rest)
    (hb : s.busy = true) (hr : s.tret = none) (n : Nat) :
    Host.Core.run Sys2Proof.core (n + 2) s
      = Host.Core.run Sys2Proof.core n (complete ts { s with turns := rest }) :=
  calc Host.Core.run Sys2Proof.core (n + 2) s
    _ = Host.Core.run Sys2Proof.core (n + 1) _ := run_of_next (n + 1) (step_of_tdone h hb hr)
    _ = Host.Core.run Sys2Proof.core n _ := run_of_next n (step_of_completed rfl hb rfl)

/-- Settles O58: ACCEPT, then TDONE and COMPLETE. -/
theorem frameOperationCompletes : Obligations.FrameOperationCompletes := by
  intro s ts rest op c code hb hv hi ht
  have hrun :=
    calc Host.Core.run Sys2Proof.core 3 s
      _ = Host.Core.run Sys2Proof.core 2 _ := run_of_next 2 (step_of_accepted_frame ht hb hv hi)
      _ = .next _ := run_answer (launch_turns _ _) (launch_busy _ _) (launch_tret _ _) 0
  exact ⟨_, hrun, by simp [State.reqReady]⟩

/-- A SET_ADDR that waits behind a transaction in flight is accepted after its completion. -/
theorem run_answer_setAddr {s : State} {ts : TStatus} {c : Nibble} {r : Byte} {d : Half} {rest : List Turn}
    (h : s.turns = .tdone ts :: .block :: .block :: rest) (hb : s.busy = true) (hr : s.tret = none)
    (hv : s.reqValid = true) (hw : decodeRequest s.reqWord = .setAddr c r d) :
    Host.Core.run Sys2Proof.core 3 s = .next { s with
      busy := false, txn := none, tret := none, reqValid := false, cfgAddr := addrOf d,
      trace := s.trace ++ [.rsp (.xfer ts)] ++ [.rsp .done], turns := rest } :=
  (run_answer h hb hr 1).trans
    (run_of_next 0 (step_of_setAddr (s := complete ts { s with turns := .block :: rest }) rfl rfl hv hw))

/-- A word presented while a transaction is in flight waits at the block's move (R195). -/
theorem run_present_waits {s : State} {w : ReqWord} {rest : List Turn} (h : s.turns = .present w :: .block :: rest)
    (hb : s.busy = true) (hr : s.tret = none) (n : Nat) :
    Host.Core.run Sys2Proof.core (n + 2) s
      = Host.Core.run Sys2Proof.core n { s with reqValid := true, reqWord := w, turns := rest } :=
  calc Host.Core.run Sys2Proof.core (n + 2) s
    _ = Host.Core.run Sys2Proof.core (n + 1) _ := run_of_next (n + 1) (step_of_present h)
    _ = Host.Core.run Sys2Proof.core n _ := run_of_next n (step_of_unanswered rfl (by exact hb) (by exact hr))

/-- Settles O59: ACCEPT; SET_ADDR is presented and waits; TDONE and COMPLETE; SET_ADDR is accepted. -/
theorem setterWaitsForTransaction : Obligations.SetterWaitsForTransaction := by
  intro s w ts op c c' code d r rest hb hv hi hw ht
  have hrun :=
    calc Host.Core.run Sys2Proof.core 6 s
      _ = Host.Core.run Sys2Proof.core 5 _ := run_of_next 5 (step_of_accepted_frame ht hb hv hi)
      _ = Host.Core.run Sys2Proof.core 3 _ :=
        run_present_waits (launch_turns _ _) (launch_busy _ _) (launch_tret _ _) 3
      _ = .next _ := run_answer_setAddr rfl (launch_busy _ _) (launch_tret _ _) rfl hw
  exact ⟨_, hrun, by simp [State.reqReady]⟩

end Sys2Proof.Machine
end

section
/-! SUPPORT. What a step adds to the trace and to the transport port's record, and that whole transactions and the
order of responses are kept (20_memory.md R41, R45, R48, R50). -/

namespace Sys2Proof.Machine

open Sys2Proof

/-- An accepted request hands over one whole transaction, or gives a response that is no XFER and calls no primitive. -/
theorem accepted_event {s t : State} {i : Instr} (h : Accepted s i t) :
    (∃ x, t.txn = some x ∧ t.trace = s.trace ++ [.txn x] ∧ t.port = s.port ++ x.prims) ∨
    (∃ r, (∀ ts, r ≠ .xfer ts) ∧ t.busy = s.busy ∧ t.trace = s.trace ++ [.rsp r] ∧ t.port = s.port) := by
  cases h with
  | frame => exact .inl ⟨_, launch_txn _ _, launch_trace _ _, launch_port _ _⟩
  | setAddr | setRes | setRate => exact .inr ⟨.done, by simp, rfl, rfl, rfl⟩
  | illegal => exact .inr ⟨.illegal, by simp, rfl, rfl, rfl⟩

/-! ### Whole transactions at the port -/

theorem portInv_of_same {s t : State} (hs : s.PortInv) (htrace : t.trace = s.trace) (hport : t.port = s.port) :
    t.PortInv := by
  rw [State.PortInv, htrace, hport]
  exact hs

/-- An event together with the primitives it stands for keeps the port's record. -/
theorem portInv_append {s t : State} {e : Event} (hs : s.PortInv) (htrace : t.trace = s.trace ++ [e])
    (hport : t.port = s.port ++ e.prims) : t.PortInv := by
  rw [State.PortInv, htrace, hport, List.flatMap_append, List.flatMap_singleton, ← hs]

/-- Settles O50: an event enters the trace together with its primitives, and no other step calls any. -/
theorem stepKeepsWholeTransactions : Obligations.StepKeepsWholeTransactions := by
  intro s t hs h
  cases step_kind h with
  | reset n _ ht => exact portInv_of_same hs (by simp [ht]) (by simp [ht])
  | accept _ ha =>
    obtain ⟨x, -, htrace, hport⟩ | ⟨r, -, -, htrace, hport⟩ := accepted_event ha
    · exact portInv_append hs htrace hport
    · exact portInv_append hs htrace (by simp [hport, Event.prims])
  | complete ts _ _ _ ht => exact portInv_append (e := .rsp (.xfer ts)) hs (by simp [ht]) (by simp [ht, Event.prims])
  | quiet hq => exact portInv_of_same hs hq.trace hq.port

/-! ### The order of the responses -/

/-- With the trace as it was, the order is kept when a busy block was busy before with the same transaction. -/
theorem orderInv_of_same_trace {s t : State} (hs : s.OrderInv) (htrace : t.trace = s.trace)
    (hbusy : t.busy = true → s.busy = true ∧ t.txn = s.txn) : t.OrderInv where
  busy_txn hb := by
    obtain ⟨hsb, htxn⟩ := hbusy hb
    rw [htxn, htrace]
    exact hs.busy_txn hsb
  first_not_xfer := htrace ▸ hs.first_not_xfer
  xfer_after_txn := htrace ▸ hs.xfer_after_txn

/-- One more event keeps the order: an XFER directly behind a transaction, any other event anywhere; and a block left
busy has that event's transaction in `TXN`. -/
theorem orderInv_append {s t : State} {e : Event} (hs : s.OrderInv) (htrace : t.trace = s.trace ++ [e])
    (hxfer : ∀ ts, e = .rsp (.xfer ts) → ∃ x, s.trace.getLast? = some (.txn x))
    (hbusy : t.busy = true → ∃ x, t.txn = some x ∧ e = .txn x) : t.OrderInv where
  busy_txn hb := by
    obtain ⟨x, htxn, rfl⟩ := hbusy hb
    exact ⟨x, htxn, by simp [htrace]⟩
  first_not_xfer ts h := by
    rw [htrace] at h
    cases hl : s.trace with
    | nil =>
      obtain ⟨x, hx⟩ := hxfer ts (by simpa [hl] using h)
      simp [hl] at hx
    | cons e' l => exact hs.first_not_xfer ts (by simpa [hl] using h)
  xfer_after_txn k ts h := by
    rw [htrace] at h ⊢
    obtain hlt | heq | hgt := Nat.lt_trichotomy (k + 1) s.trace.length
    · rw [List.getElem?_append_left hlt] at h
      rw [List.getElem?_append_left (by omega)]
      exact hs.xfer_after_txn k ts h
    · rw [heq, List.getElem?_concat_length] at h
      obtain ⟨x, hx⟩ := hxfer ts (Option.some.inj h)
      rw [List.getLast?_eq_getElem?, ← heq, Nat.add_sub_cancel] at hx
      exact ⟨x, by rwa [List.getElem?_append_left (by omega)]⟩
    · rw [List.getElem?_eq_none (by simpa using hgt)] at h
      cases h

/-- Settles O51: COMPLETE finds its transaction at the end of the trace; a request accepted, which is at a ready block,
puts its transaction there or answers with no XFER. -/
theorem stepKeepsResponseOrder : Obligations.StepKeepsResponseOrder := by
  intro s t hs h
  cases step_kind h with
  | reset n _ ht => exact orderInv_of_same_trace hs (by simp [ht]) (by simp [ht])
  | accept hm ha =>
    obtain ⟨_, hready, _⟩ := hm
    obtain ⟨x, htxn, htrace, -⟩ | ⟨r, hr, hbusy, htrace, -⟩ := accepted_event ha
    · exact orderInv_append hs htrace (by simp) fun _ => ⟨x, htxn, rfl⟩
    · exact orderInv_append hs htrace (by simp [hr]) (by simp [hbusy, hready])
  | complete ts _ hb _ ht =>
    obtain ⟨x, -, hlast⟩ := hs.busy_txn hb
    exact orderInv_append (e := .rsp (.xfer ts)) hs (by simp [ht]) (fun _ _ => ⟨x, hlast⟩) (by simp [ht])
  | quiet hq => exact orderInv_of_same_trace hs hq.trace fun hb => ⟨hq.busy ▸ hb, hq.txn⟩

end Sys2Proof.Machine
end

section
/-! SUPPORT. The two lengths of a frame (20_memory.md R44), and the call around the request port (R55). -/

namespace Sys2Proof.Machine

open Sys2Proof

/-- Settles O17: the two data operations and the five control operations. -/
theorem frameLengthIsFixed : Obligations.FrameLengthIsFixed := by
  intro op ch code res
  cases op with
  | write | store => rw [frame_data _ ch code res rfl]; rfl
  | update | powerDown | powerOff | intRef | extRef => rw [frame_control _ ch code res rfl]; rfl

/-- Settles O43: the step takes the turn, and the turn's move is the fault. -/
theorem portBypassFaults : Obligations.PortBypassFaults := by
  intro s w rest h
  rw [step_of_turn h]
  rfl

end Sys2Proof.Machine
end

section
/-! SUPPORT. What the decoder reads from a packed request word (30_encoding.md R60, R61) and from a packed command byte
(R66 to R70). -/

namespace Sys2Proof

/-! ### Request words -/

@[simp] theorem reqRest_packReq (rop chan : Nibble) (rsvd : Byte) (data : Half) :
    reqRest (packReq rop chan rsvd data) = chan ++ rsvd ++ data := by
  rw [Laws.RowBits.packReq_eq_packRest, reqRest_packRest]

@[simp] theorem decodeRequest_packReq (rop chan : Nibble) (rsvd : Byte) (data : Half) :
    decodeRequest (packReq rop chan rsvd data) = requestOf rop chan rsvd data (chan ++ rsvd ++ data) := by
  simp [decodeRequest]

theorem requestOf_reservedCF {rop : Nibble} (h : 0xC#4 ≤ rop) (chan : Nibble) (rsvd : Byte) (data : Half)
    (rest : BitVec 28) : requestOf rop chan rsvd data rest = .reservedCF rop rest := by
  have hrop : ∀ r : Nibble, 0xC#4 ≤ r → r = 0xC#4 ∨ r = 0xD#4 ∨ r = 0xE#4 ∨ r = 0xF#4 := by decide
  rcases hrop rop h with rfl | rfl | rfl | rfl <;> rfl

/-- The encoder writes back the word from which a request was selected, the reserved words included. -/
theorem encode_requestOf (rop chan : Nibble) (rsvd : Byte) (data : Half) :
    encode (requestOf rop chan rsvd data (chan ++ rsvd ++ data)) = .req (packReq rop chan rsvd data) := by
  have hrest := Laws.RowBits.packReq_eq_packRest rop chan rsvd data
  rcases requestOf_cases rop chan rsvd data (chan ++ rsvd ++ data) with
    ⟨rfl, h⟩ | ⟨rfl, h⟩ | ⟨rfl, h⟩ | ⟨rfl, h⟩ | ⟨rfl, h⟩ | ⟨rfl, h⟩ | ⟨rfl, h⟩ | ⟨rfl, h⟩ | ⟨rfl, h⟩ | ⟨rfl, h⟩ |
    ⟨rfl, h⟩ | ⟨rfl, h⟩ | ⟨-, h⟩ <;> simp only [h, encode, hrest]

/-! ### Command bytes -/

theorem packCmd_fields (b : Byte) : packCmd (cmdOpc b) (cmdSel b) = b := by
  ext i hi; simp [packCmd, cmdOpc, cmdSel]; grind

theorem packCmd_inj {opc opc' sel sel' : Nibble} :
    packCmd opc sel = packCmd opc' sel' ↔ opc = opc' ∧ sel = sel' := by
  refine ⟨fun h => ⟨?_, ?_⟩, fun ⟨hopc, hsel⟩ => hopc ▸ hsel ▸ rfl⟩
  · simpa using congrArg cmdOpc h
  · simpa using congrArg cmdSel h

/-- R70: of the packed bytes, only OPC 0x0 with SEL 0x5 is the fixed byte of PowerDownAll. -/
@[simp] theorem packCmd_eq_powerDownAll {opc sel : Nibble} :
    packCmd opc sel = 0x05#8 ↔ opc = 0x0#4 ∧ sel = 0x5#4 :=
  packCmd_inj (opc' := 0x0#4) (sel' := 0x5#4)

@[simp] theorem decodeCommand_powerDownAll : decodeCommand .control 0x05#8 = .ok .cmdPowerDownAll := rfl

theorem decodeCommand_writeInput {f : FrameFormat} {sel : Nibble} (h : f = .control → sel ≠ 0x5#4) :
    decodeCommand f (packCmd 0x0#4 sel) = .ok (.cmdWriteInput sel) := by
  simpa [decodeCommand] using h

@[simp] theorem decodeCommand_update (f : FrameFormat) (sel : Nibble) :
    decodeCommand f (packCmd 0x1#4 sel) = .ok (.cmdUpdate sel) := by simp [decodeCommand]

@[simp] theorem decodeCommand_writeUpdateAll (f : FrameFormat) (sel : Nibble) :
    decodeCommand f (packCmd 0x2#4 sel) = .ok (.cmdWriteUpdateAll sel) := by simp [decodeCommand]

@[simp] theorem decodeCommand_writeUpdateOne (f : FrameFormat) (sel : Nibble) :
    decodeCommand f (packCmd 0x3#4 sel) = .ok (.cmdWriteUpdateOne sel) := by simp [decodeCommand]

@[simp] theorem decodeCommand_powerDownOne (f : FrameFormat) (sel : Nibble) :
    decodeCommand f (packCmd 0x4#4 sel) = .ok (.cmdPowerDownOne sel) := by simp [decodeCommand]

@[simp] theorem decodeCommand_packedPowerDownAll (f : FrameFormat) (sel : Nibble) :
    decodeCommand f (packCmd 0x5#4 sel) = .error (.packedPowerDownAll sel) := by simp [decodeCommand]

@[simp] theorem decodeCommand_internalRef (f : FrameFormat) :
    decodeCommand f (packCmd 0x6#4 0xF#4) = .ok .cmdInternalRef := by simp [decodeCommand]

@[simp] theorem decodeCommand_externalRef (f : FrameFormat) :
    decodeCommand f (packCmd 0x7#4 0xF#4) = .ok .cmdExternalRef := by simp [decodeCommand]

theorem decodeCommand_referenceNotBoth (f : FrameFormat) {opc sel : Nibble} (hopc : opc = 0x6#4 ∨ opc = 0x7#4)
    (hsel : sel ≠ 0xF#4) : decodeCommand f (packCmd opc sel) = .error (.referenceNotBoth sel) := by
  rcases hopc with rfl | rfl <;> simp [decodeCommand, hsel]

@[simp] theorem decodeCommand_noOp (f : FrameFormat) (sel : Nibble) :
    decodeCommand f (packCmd 0xF#4 sel) = .ok (.cmdNoOp sel) := by simp [decodeCommand]

theorem decodeCommand_undefinedOpcode (f : FrameFormat) {opc : Nibble} (sel : Nibble) (hlo : 0x8#4 ≤ opc)
    (hhi : opc ≤ 0xE#4) : decodeCommand f (packCmd opc sel) = .error (.undefinedOpcode opc) := by
  have hopc : ∀ o : Nibble, 0x8#4 ≤ o → o ≤ 0xE#4 →
      o = 0x8#4 ∨ o = 0x9#4 ∨ o = 0xA#4 ∨ o = 0xB#4 ∨ o = 0xC#4 ∨ o = 0xD#4 ∨ o = 0xE#4 := by decide
  rcases hopc opc hlo hhi with rfl | rfl | rfl | rfl | rfl | rfl | rfl <;> simp [decodeCommand]

end Sys2Proof
end

section
/-! SUPPORT. The decoder and the encoder undo each other (30_encoding.md R60, R61, R67, R69). -/

namespace Sys2Proof

/-- Settles O1: a request by the word's ROP, a command byte by its OPC, and 0x05 by the format of its frame. -/
theorem decodeOfEncodeIsIdentity : Obligations.DecodeOfEncodeIsIdentity := by
  intro i hwf
  cases i with
  | write | store | update | powerDown | powerOff | intRef | extRef | setAddr | setRes | setRate =>
    exact congrArg Except.ok (decodeRequest_packReq _ _ _ _)
  | reserved0 | reservedB => simp [encode, decode, decodeRequest, requestOf]
  | reservedCF rop rest =>
    have hrop : 0xC#4 ≤ rop := by simpa [Instr.wf] using hwf
    simp [encode, decode, decodeRequest, requestOf_reservedCF hrop]
  | cmdWriteInput sel => exact decodeCommand_writeInput (fun h => nomatch h)
  | cmdUpdate | cmdWriteUpdateAll | cmdWriteUpdateOne | cmdPowerDownOne | cmdNoOp => simp [encode, decode]
  | cmdPowerDownAll | cmdInternalRef | cmdExternalRef => simp [encode, decode]

/-- Settles O2: the word is the packing of its fields, and the encoder packs them again. -/
theorem encodeOfDecodedWordIsTheWord : Obligations.EncodeOfDecodedWordIsTheWord := by
  intro w
  refine ⟨?_, requestOf_wf _ _ _ _ _⟩
  rw [← packReq_fields w, decodeRequest_packReq, encode_requestOf]

/-- Settles O3: the fields of the word are those packed, and its low 28 bits are the last three of them. -/
theorem ropSelectsTheRequest : Obligations.RopSelectsTheRequest := decodeRequest_packReq

/-- Settles O4: the bytes of no row, by their OPC. -/
theorem undefinedCommandBytesAreRejected : Obligations.UndefinedCommandBytesAreRejected := by
  intro f opc sel
  exact ⟨decodeCommand_undefinedOpcode f sel, decodeCommand_packedPowerDownAll f sel,
    decodeCommand_referenceNotBoth f⟩

/-- Settles O7 by evaluation of the decoder on each word. -/
theorem sampleWordsDecode : Obligations.SampleWordsDecode := by
  unfold Obligations.SampleWordsDecode
  decide

end Sys2Proof
end

section
/-! SUPPORT. The decoder follows the rows of spec/opcode_table.json. -/

namespace Sys2Proof

/-- The nibble at bit `n` of a number, masked, is the nibble of the masked number. -/
theorem nibble_and_mask (x n : Nat) (m : Nibble) :
    BitVec.ofNat 4 (x >>> n) &&& m = BitVec.ofNat 4 ((x &&& m.toNat <<< n) >>> n) := by
  rw [Nat.shiftRight_and_distrib, Nat.shiftLeft_shiftRight, BitVec.ofNat_and, BitVec.ofNat_toNat, BitVec.setWidth_eq]

/-- A row that fixes the bits `m` of the ROP. -/
theorem reqRop_and_of_holds {m : Nibble} {v : Nat} {w : ReqWord}
    (h : TableRow.holds ⟨32, m.toNat <<< 28, v⟩ (.req w) = true) : reqRop w &&& m = BitVec.ofNat 4 (v >>> 28) := by
  have hv : w.toNat &&& m.toNat <<< 28 = v := by simpa [TableRow.holds, Encoded.bits] using h
  rw [← hv]
  exact nibble_and_mask w.toNat 28 m

/-- A row that fixes the whole ROP. -/
theorem reqRop_of_holds {v : Nat} {w : ReqWord} (h : TableRow.holds ⟨32, 0xF0000000, v⟩ (.req w) = true) :
    reqRop w = BitVec.ofNat 4 (v >>> 28) := by
  rw [← reqRop_and_of_holds (m := 0xF#4) h]
  exact BitVec.and_allOnes.symm

/-- A row that fixes the OPC and leaves SEL free. -/
theorem exists_packCmd_of_holds {v : Nat} {f : FrameFormat} {b : Byte}
    (h : TableRow.holds ⟨8, 0xF0, v⟩ (.cmd f b) = true) : ∃ sel, packCmd (BitVec.ofNat 4 (v >>> 4)) sel = b := by
  have hv : b.toNat &&& (0xF#4).toNat <<< 4 = v := by simpa [TableRow.holds, Encoded.bits] using h
  have hopc : cmdOpc b = BitVec.ofNat 4 (v >>> 4) := by
    rw [← hv, ← nibble_and_mask]
    exact BitVec.and_allOnes.symm
  exact ⟨cmdSel b, hopc ▸ packCmd_fields b⟩

/-- A row of one byte. -/
theorem eq_of_holds {v : Nat} {f : FrameFormat} {b : Byte} (h : TableRow.holds ⟨8, 0xFF, v⟩ (.cmd f b) = true) :
    b = BitVec.ofNat 8 v := by
  have hv : b.toNat &&& 2 ^ 8 - 1 = v := by simpa [TableRow.holds, Encoded.bits] using h
  rw [← hv, Nat.and_two_pow_sub_one_eq_mod, ← BitVec.toNat_ofNat]
  simp

/-- A request word in a row has the row's ROP, which selects an instruction of that row. -/
theorem tableRow_decodeRequest {i : Instr} {w : ReqWord} (h : (tableRow i).holds (.req w) = true) :
    tableRow (decodeRequest w) = tableRow i := by
  unfold decodeRequest
  cases i with
  | write | store | update | powerDown | powerOff | intRef | extRef | setAddr | setRes | setRate | reserved0
  | reservedB => rw [reqRop_of_holds h]; rfl
  | reservedCF rop rest =>
    have high : ∀ r : Nibble, r &&& 0xC#4 = 0xC#4 → 0xC#4 ≤ r := by decide
    rw [requestOf_reservedCF (high _ (reqRop_and_of_holds (m := 0xC#4) h))]
    rfl
  | _ => cases h

/-- A command byte in a row, other than 0x05, is read as an instruction of that row in either format. -/
theorem tableRow_decodeCommand {i : Instr} {f : FrameFormat} {b : Byte} (h : (tableRow i).holds (.cmd f b) = true)
    (hb : b ≠ 0x05#8) : (decodeCommand f b).toOption.map tableRow = some (tableRow i) := by
  cases i with
  | cmdWriteInput =>
    obtain ⟨sel, rfl⟩ := exists_packCmd_of_holds h
    have hsel : sel ≠ 0x5#4 := fun hs => hb (packCmd_eq_powerDownAll.mpr ⟨rfl, hs⟩)
    exact congrArg (·.toOption.map tableRow) (decodeCommand_writeInput fun _ => hsel)
  | cmdUpdate | cmdWriteUpdateAll | cmdWriteUpdateOne | cmdPowerDownOne | cmdNoOp =>
    obtain ⟨sel, rfl⟩ := exists_packCmd_of_holds h
    simp [tableRow, Except.toOption]
  | cmdPowerDownAll => exact absurd (eq_of_holds h) hb
  | cmdInternalRef | cmdExternalRef => rw [eq_of_holds h]; cases f <;> rfl
  | _ => cases h

/-- Settles O6: the two formats, 0x05 aside. -/
theorem decoderFollowsTheTable : Obligations.DecoderFollowsTheTable :=
  ⟨fun _ _ => tableRow_decodeRequest, fun _ _ b h => (em (b = 0x05#8)).symm.imp_left (tableRow_decodeCommand h)⟩

end Sys2Proof
end

section
/-! SUPPORT. The command byte of a frame (30_encoding.md R67, R70, R72, 70_reset_and_hazards.md R198). -/

namespace Sys2Proof.Machine

open Sys2Proof

/-- R67: what a frame operation sends is the encoding of the row "emitted by" it, in the row's format. -/
theorem encode_emittedCommand (op : FrameOp) (ch : Nibble) :
    encode (emittedCommand op ch) = .cmd (formatOf op) (cmdsel op ch) := by cases op <;> rfl

theorem emittedCommand_wf (op : FrameOp) (ch : Nibble) : (emittedCommand op ch).wf = true := by cases op <;> rfl

theorem decodeCommand_cmdsel (op : FrameOp) (ch : Nibble) :
    decodeCommand (formatOf op) (cmdsel op ch) = .ok (emittedCommand op ch) := by
  have h := decodeOfEncodeIsIdentity _ (emittedCommand_wf op ch)
  rwa [encode_emittedCommand] at h

/-- R70, R72: the monitor reads the command byte in the format of the operation that sent the frame. -/
theorem decodeFrame_frame (op : FrameOp) (ch : Nibble) (code : Half) (res : Res) :
    decodeFrame (frame op ch code res) = (decodeCommand (formatOf op) (cmdsel op ch)).toOption := by
  cases hf : formatOf op with
  | control => rw [frame_control op ch code res hf]; rfl
  | data => rw [frame_data op ch code res hf]; rfl

/-- Settles O5: the frame's length gives the format, and the byte in its format decodes to the row that sent it. -/
theorem monitorReadsEveryFrame : Obligations.MonitorReadsEveryFrame := by
  intro op ch code res
  rw [decodeFrame_frame, decodeCommand_cmdsel]
  rfl

@[simp] theorem frame_head? (op : FrameOp) (ch : Nibble) (code : Half) (res : Res) :
    (frame op ch code res).head? = some (cmdsel op ch) := by
  cases hf : formatOf op with
  | control => rw [frame_control op ch code res hf]; rfl
  | data => rw [frame_data op ch code res hf]; rfl

/-- The OPC nibble of an operation's command byte: the table of R67, and 0x0 for the fixed byte 0x05 (R70). -/
def frameOpc : FrameOp → Nibble
  | .write => 0x3#4
  | .store => 0x0#4
  | .update => 0x1#4
  | .powerDown => 0x4#4
  | .powerOff => 0x0#4
  | .intRef => 0x6#4
  | .extRef => 0x7#4

theorem cmdOpc_cmdsel (op : FrameOp) (ch : Nibble) : cmdOpc (cmdsel op ch) = frameOpc op := by
  cases op with
  | powerOff => exact cmdOpc_enc 0x0#4 0x5#4
  | _ => exact cmdOpc_enc _ _

/-- Only STORE and POWER_OFF share an OPC nibble. -/
theorem store_and_powerOff_of_frameOpc_eq {op op' : FrameOp} (h : frameOpc op = frameOpc op') (hne : op ≠ op') :
    (op = .store ∧ op' = .powerOff) ∨ (op' = .store ∧ op = .powerOff) := by
  revert h hne
  cases op <;> cases op' <;> decide

/-- R70: STORE sends the fixed byte of POWER_OFF for channel 0x5 only, and in a frame of another length (R44). -/
theorem store_powerOff_first_byte {ch ch' : Nibble} (h : cmdsel .store ch = cmdsel .powerOff ch')
    (c c' : Half) (r r' : Res) :
    ch = 0x5#4 ∧ (frame .store ch c r).length ≠ (frame .powerOff ch' c' r').length := by
  refine ⟨(packCmd_eq_powerDownAll.mp h).2, ?_⟩
  rw [frameLengthIsFixed, frameLengthIsFixed]
  decide

/-- Settles O18: equal bytes have equal OPC nibbles, which leaves STORE and POWER_OFF. -/
theorem onlyPowerOffByteIsAliased : Obligations.OnlyPowerOffByteIsAliased := by
  intro op op' ch ch' c c' r r' hhead hne
  have hbyte : cmdsel op ch = cmdsel op' ch' := by simpa using hhead
  have hopc : frameOpc op = frameOpc op' := by rw [← cmdOpc_cmdsel op ch, hbyte, cmdOpc_cmdsel]
  rcases store_and_powerOff_of_frameOpc_eq hopc hne with ⟨rfl, rfl⟩ | ⟨rfl, rfl⟩
  · obtain ⟨hch, hlen⟩ := store_powerOff_first_byte hbyte c c' r r'
    exact ⟨.inl ⟨rfl, hch, rfl⟩, hlen⟩
  · obtain ⟨hch, hlen⟩ := store_powerOff_first_byte hbyte.symm c' c r' r
    exact ⟨.inr ⟨rfl, hch, rfl⟩, hlen.symm⟩

end Sys2Proof.Machine
end

section
/-! SUPPORT. The written form, the response encoding, and the ignored fields of a request (30_encoding.md R63, R65, R75,
R80). -/

namespace Sys2Proof.Machine

open Sys2Proof

/-- Settles O8 by evaluation of the assembler on each line. -/
theorem sampleLinesAssemble : Obligations.SampleLinesAssemble :=
  ⟨by decide, by decide, by decide, by decide, by decide⟩

/-- Settles O9: one line per response. -/
theorem responseEncoding : Obligations.ResponseEncoding := by
  refine ⟨⟨rfl, rfl⟩, fun ts => ⟨rfl, rfl⟩, ⟨rfl, rfl⟩, fun r => ?_⟩
  cases r <;> simp [Response.kind]

/-- A control frame is its command byte, so a control operation depends on its fields through that byte alone. -/
theorem acceptFrame_control_congr {op : FrameOp} {ch ch' : Nibble} (hop : formatOf op = .control)
    (hbyte : cmdsel op ch = cmdsel op ch') (d d' : Half) (s : State) :
    acceptFrame op ch d s = acceptFrame op ch' d' s := by
  simp only [acceptFrame, frame_control _ _ _ _ hop, hbyte]

/-- Settles O33: RSVD reaches no operation, a setter reads DATA only, and a control operation only its command byte. -/
theorem ignoredFieldsChangeNothing : Obligations.IgnoredFieldsChangeNothing := by
  intro ch ch' r r' d d' s
  exact ⟨rfl, rfl,
    acceptFrame_control_congr (op := .update) rfl rfl d d' s,
    acceptFrame_control_congr (op := .powerDown) rfl rfl d d' s,
    acceptFrame_control_congr (op := .powerOff) rfl rfl d d' s,
    acceptFrame_control_congr (op := .intRef) rfl rfl d d' s,
    acceptFrame_control_congr (op := .extRef) rfl rfl d d' s,
    rfl, rfl, rfl⟩

end Sys2Proof.Machine
end


section
/-! SUPPORT. ENC and SCALE as arithmetic on naturals, and what each byte of a frame depends on (40_datapath.md). -/

namespace Sys2Proof.Machine

open Sys2Proof

/-! ### SCALE -/

/-- The register value of R104 is the clamped code, left-justified. -/
theorem registerValue_eq_clamp (code : Half) (res : Res) :
    registerValue code res = clamp code res * 2 ^ (16 - res.bits) := rfl

/-- Settles O11: each byte is its own number, which is a quotient or a remainder of the register value. -/
theorem scaleClampsJustifiesAndSplits : Obligations.ScaleClampsJustifiesAndSplits := by
  intro code res
  rw [registerValue_eq_clamp, valueBytes, ← scale_hi_toNat, ← scale_lo_toNat]
  simp only [BitVec.ofNat_toNat, BitVec.setWidth_eq]

/-- The two bytes read as one number, high byte first. -/
theorem scale_value (code : Half) (res : Res) :
    (scale code res).1.toNat * 256 + (scale code res).2.toNat = registerValue code res := by
  rw [scale_hi_toNat, scale_lo_toNat, Nat.div_add_mod', registerValue_eq_clamp]

theorem scale_append_toNat (code : Half) (res : Res) :
    ((scale code res).1 ++ (scale code res).2 : Half).toNat = registerValue code res := by
  have hor := Nat.two_pow_add_eq_or_of_lt (scale code res).2.isLt (scale code res).1.toNat
  rw [BitVec.toNat_append, Nat.shiftLeft_eq, Nat.mul_comm, ← hor, Nat.mul_comm]
  exact scale_value code res

/-- SCALE sees a code only through the clamp (R104). -/
theorem scale_congr {c c' : Half} {res : Res} (h : clamp c res = clamp c' res) : scale c res = scale c' res := by
  simp only [scale, justify, h]

theorem clamp_mono {a b : Half} (h : a.toNat ≤ b.toNat) (res : Res) : clamp a res ≤ clamp b res :=
  min_le_min_right (maxCode res) h

theorem registerValue_mono {a b : Half} (h : a.toNat ≤ b.toNat) (res : Res) :
    registerValue a res ≤ registerValue b res :=
  Nat.mul_le_mul_right _ (clamp_mono h res)

theorem clamp_ofNat_maxCode (res : Res) : clamp (BitVec.ofNat 16 (maxCode res)) res = maxCode res := by
  cases res <;> rfl

/-- Settles O12: the clamp at and above `2 ^ res`, the clamp below it, and the two bytes as one number. -/
theorem scaleSaturatesAndIsMonotone : Obligations.ScaleSaturatesAndIsMonotone := by
  refine ⟨fun code res h => ?_, clamp_of_le, fun a b res h => ?_⟩
  · have hclamp : clamp code res = maxCode res := clamp_of_ge code res ((Nat.sub_le _ 1).trans h)
    exact ⟨hclamp, scale_congr (hclamp.trans (clamp_ofNat_maxCode res).symm)⟩
  · rw [scale_value, scale_value]
    exact registerValue_mono h res

/-- Settles O13: the value is a multiple of `2 ^ (16 - res)`, by the clamped code. -/
theorem lowDataBitsAreZero : Obligations.LowDataBitsAreZero := by
  intro code res v
  have hv : v.toNat = min code.toNat (2 ^ res.bits - 1) * 2 ^ (16 - res.bits) := scale_append_toNat code res
  rw [hv]
  exact ⟨Nat.mul_div_cancel _ (Nat.two_pow_pos _), Nat.mul_mod_left _ _⟩

/-- Settles O14: the edge cases by evaluation; 0xFF as the low byte is no multiple of 16. -/
theorem scaleEndpoints : Obligations.ScaleEndpoints := by
  refine ⟨fun res => ?_, by decide, by decide, by decide, fun code res h => ?_⟩
  · cases res <;> rfl
  · have hlow := scale_lo_mod_sixteen code res
    rw [h] at hlow
    exact absurd hlow (by decide)

/-- Settles O15: the clamp keeps the code, and shift and mask are the quotient and the remainder. -/
theorem scaleOnUnclampedCodes : Obligations.ScaleOnUnclampedCodes := by
  intro res code h
  rw [scale_hi_toNat, scale_lo_toNat, clamp_of_le code res h, Nat.shiftLeft_eq, Nat.shiftRight_eq_div_pow]
  exact ⟨rfl, (Nat.and_two_pow_sub_one_eq_mod _ 8).symm⟩

/-! ### ENC and FRAME -/

theorem nibble_toNat_and_mask (n : Nibble) : n.toNat &&& 0xF = n.toNat :=
  Nat.and_two_pow_sub_one_of_lt_two_pow n.isLt

/-- Settles O10: the masks keep a nibble, and `++` is the shift and the or. -/
theorem encPacksOpcodeAndChannel : Obligations.EncPacksOpcodeAndChannel := by
  intro op ch
  rw [nibble_toNat_and_mask, nibble_toNat_and_mask, enc, BitVec.toNat_append]

/-- R72: WRITE and STORE are the two operations of the data format. -/
theorem formatOf_eq_data_iff (op : FrameOp) : formatOf op = .data ↔ op = .write ∨ op = .store := by
  cases op <;> decide

theorem formatOf_eq_control {op : FrameOp} (hw : op ≠ .write) (hs : op ≠ .store) : formatOf op = .control := by
  cases hf : formatOf op with
  | control => rfl
  | data => exact absurd ((formatOf_eq_data_iff op).mp hf) (not_or.mpr ⟨hw, hs⟩)

theorem frame_data_tail {op : FrameOp} (h : op = .write ∨ op = .store) (ch : Nibble) (code : Half) (res : Res) :
    (frame op ch code res).tail = [(scale code res).1, (scale code res).2] := by
  rw [frame_data op ch code res ((formatOf_eq_data_iff op).mpr h), List.tail_cons]

/-- Settles O16: a control frame is its command byte, the head of a data frame is its command byte, and its tail is
SCALE's two bytes. -/
theorem frameDependencies : Obligations.FrameDependencies := by
  refine ⟨fun op ch c c' r r' hw hs => ?_, fun op op' ch ch' c c' r r' hop hop' => ⟨?_, ?_⟩⟩
  · have hf := formatOf_eq_control hw hs
    rw [frame_control op ch c r hf, frame_control op ch c' r' hf]
  · rw [frame_head?, frame_head?]
  · rw [frame_data_tail hop, frame_data_tail hop']

end Sys2Proof.Machine
end

section
/-! SUPPORT. The frame operations' completion (10_state.md R30, R31), and the frames of WRITE and STORE
(41_data_operations.md). -/

namespace Sys2Proof.Machine

open Sys2Proof

/-! ### Sending a frame and completing it -/

/-- ACCEPT leaves what R30 lists; the accepted word is taken from the port (log entry 2). -/
theorem launch_eq_afterSending (f : List Byte) (s : State) :
    launch f { s with reqValid := false } = s.afterSending f false := by
  rw [launch_eq]
  rfl

theorem exec_eq_afterSending {i : Instr} {op : FrameOp} {ch : Nibble} {code : Half} {s : State}
    (hi : frameRequest i = some (op, ch, code)) (hb : s.busy = false) :
    exec i s = .next (s.afterSending (frame op ch code s.cfgRes) false) := by
  rw [exec_of_frameRequest hi, acceptFrame_of_ready op ch code s hb, launch_eq_afterSending]

/-- Every frame operation sends its frame, and COMPLETE answers it (R30, R31, decision D12). -/
theorem sendsFrame_of_frameRequest {i : Instr} {op : FrameOp} {ch : Nibble} {code : Half} {f : State → List Byte}
    (hi : frameRequest i = some (op, ch, code)) (hf : ∀ s, frame op ch code s.cfgRes = f s) : SendsFrame i f := by
  intro s hb
  refine ⟨false, ?_, fun ts => ?_⟩
  · rw [← hf]
    exact exec_eq_afterSending hi hb
  · exact blockStep_of_returned rfl rfl

/-! ### The bytes of a data frame -/

@[simp] theorem cmdSel_enc (op ch : Nibble) : cmdSel (enc op ch) = ch := cmdSel_packCmd op ch

/-- R66: the packed byte is the opcode times 16 plus the channel. -/
theorem enc_eq_packedByte (op ch : Nibble) : enc op ch = packedByte op.toNat ch := by
  have h : op.toNat * 16 + ch.toNat = (enc op ch).toNat := by rw [enc_toNat]; omega
  rw [packedByte, h, BitVec.ofNat_toNat, BitVec.setWidth_eq]

/-- A data operation's frame, its command byte and its register value as arithmetic on naturals (R104, R112). -/
theorem frame_data_eq {op : FrameOp} {opc ch : Nibble} (hop : formatOf op = .data) (hbyte : cmdsel op ch = enc opc ch)
    (code : Half) (res : Res) :
    frame op ch code res = packedByte opc.toNat ch :: valueBytes (registerValue code res) := by
  rw [frame_data op ch code res hop, hbyte, enc_eq_packedByte, scaleClampsJustifiesAndSplits]

/-! ### WRITE and STORE -/

/-- Settles O19: ROP 0x1 is WRITE, a frame operation of the data format with OPC 0x3. -/
theorem writeSendsItsDataFrame : Obligations.WriteSendsItsDataFrame := fun ch rsvd code =>
  ⟨ropSelectsTheRequest 0x1#4 ch rsvd code,
    sendsFrame_of_frameRequest rfl fun s => frame_data_eq (op := .write) (opc := 0x3#4) rfl rfl code s.cfgRes⟩

/-- Settles O20: ROP 0x2 is STORE, a frame operation of the data format with OPC 0x0. -/
theorem storeSendsItsDataFrame : Obligations.StoreSendsItsDataFrame := fun ch rsvd code =>
  ⟨ropSelectsTheRequest 0x2#4 ch rsvd code,
    sendsFrame_of_frameRequest rfl fun s => frame_data_eq (op := .store) (opc := 0x0#4) rfl rfl code s.cfgRes⟩

/-- Settles O21: both send the two bytes of SCALE behind a byte that packs the OPC with the same channel. -/
theorem writeAndStoreDifferInOpcodeOnly : Obligations.WriteAndStoreDifferInOpcodeOnly := by
  intro ch rsvd code s hb
  have hwrite := exec_eq_afterSending (i := .write ch rsvd code) rfl hb
  have hstore := exec_eq_afterSending (i := .store ch rsvd code) rfl hb
  rw [frame_data _ _ _ _ rfl] at hwrite hstore
  refine ⟨_, _, enc 0x3#4 ch, enc 0x0#4 ch, _, _, hwrite, hstore, rfl, rfl, ?_, ?_, ?_⟩
  · exact cmdOpc_enc 0x3#4 ch
  · exact cmdOpc_enc 0x0#4 ch
  · rw [cmdSel_enc, cmdSel_enc]

end Sys2Proof.Machine
end

section
/-! SUPPORT. The frames of the five control operations (42_control_operations.md). -/

namespace Sys2Proof.Machine

open Sys2Proof

/-- R72: a control operation sends its command byte and nothing else, whatever CHAN, DATA and CFG_RES are. -/
theorem sendsFrame_of_control {i : Instr} {op : FrameOp} {ch : Nibble} {data : Half} {b : Byte}
    (hi : frameRequest i = some (op, ch, data)) (hop : formatOf op = .control) (hbyte : cmdsel op ch = b) :
    SendsFrame i (fun _ => [b]) :=
  sendsFrame_of_frameRequest hi fun s => by rw [frame_control op ch data s.cfgRes hop, hbyte]

/-! ### The command bytes of R110 -/

theorem cmdsel_update (ch : Nibble) : cmdsel .update ch = packedByte 0x1 ch := enc_eq_packedByte 0x1#4 ch

theorem cmdsel_powerDown (ch : Nibble) : cmdsel .powerDown ch = packedByte 0x4 ch := enc_eq_packedByte 0x4#4 ch

theorem cmdsel_powerOff (ch : Nibble) : cmdsel .powerOff ch = 0x05#8 := rfl

theorem cmdsel_intRef (ch : Nibble) : cmdsel .intRef ch = 0x6F#8 := rfl

theorem cmdsel_extRef (ch : Nibble) : cmdsel .extRef ch = 0x7F#8 := rfl

/-! ### The five operations -/

/-- Settles O22: ROP 0x3 is UPDATE, a control operation whose byte packs OPC 0x1 with CHAN. -/
theorem updateSendsItsCommand : Obligations.UpdateSendsItsCommand := fun ch rsvd data =>
  ⟨ropSelectsTheRequest 0x3#4 ch rsvd data, sendsFrame_of_control rfl rfl (cmdsel_update ch)⟩

/-- Settles O23: ROP 0x4 is POWER_DOWN, a control operation whose byte packs OPC 0x4 with CHAN. -/
theorem powerDownSendsItsCommand : Obligations.PowerDownSendsItsCommand := fun ch rsvd data =>
  ⟨ropSelectsTheRequest 0x4#4 ch rsvd data, sendsFrame_of_control rfl rfl (cmdsel_powerDown ch)⟩

/-- Settles O24: ROP 0x5 is POWER_OFF, a control operation whose byte does not pass through ENC (R102). -/
theorem powerOffSendsFixedByte : Obligations.PowerOffSendsFixedByte := fun ch rsvd data =>
  ⟨ropSelectsTheRequest 0x5#4 ch rsvd data, sendsFrame_of_control rfl rfl (cmdsel_powerOff ch)⟩

/-- Settles O25: ROP 0x6 is INT_REF, a control operation whose byte packs OPC 0x6 with the constant channel BOTH. -/
theorem intRefSendsFixedByte : Obligations.IntRefSendsFixedByte := fun ch rsvd data =>
  ⟨ropSelectsTheRequest 0x6#4 ch rsvd data, sendsFrame_of_control rfl rfl (cmdsel_intRef ch)⟩

/-- Settles O26: ROP 0x7 is EXT_REF, a control operation whose byte packs OPC 0x7 with the constant channel BOTH. -/
theorem extRefSendsFixedByte : Obligations.ExtRefSendsFixedByte := fun ch rsvd data =>
  ⟨ropSelectsTheRequest 0x7#4 ch rsvd data, sendsFrame_of_control rfl rfl (cmdsel_extRef ch)⟩

end Sys2Proof.Machine
end

section
/-! SUPPORT. What the setters store (43_configuration.md R150, R153, R156), and that a setter governs the frame operation
accepted after it (R158). -/

namespace Sys2Proof.Machine

open Sys2Proof

/-! ### The stored values as conditions on the number DATA -/

/-- The four legal addresses of R150, compared over all 16 bits of DATA. -/
theorem toNat_mem_legal_iff (data : Half) :
    data.toNat ∈ [0x10, 0x11, 0x12, 0x73] ↔
      data = 0x0010#16 ∨ data = 0x0011#16 ∨ data = 0x0012#16 ∨ data = 0x0073#16 := by
  simp [← BitVec.toNat_inj]

/-- R150: a legal address is stored as its low 7 bits. -/
theorem addrOf_of_legal {data : Half} (h : data.toNat ∈ [0x10, 0x11, 0x12, 0x73]) :
    addrOf data = BitVec.ofNat 7 data.toNat :=
  if_pos ((toNat_mem_legal_iff data).mp h)

/-- R151: any other value stores GLOBAL. -/
theorem addrOf_of_illegal {data : Half} (h : data.toNat ∉ [0x10, 0x11, 0x12, 0x73]) : addrOf data = addrGlobal :=
  if_neg (mt (toNat_mem_legal_iff data).mpr h)

theorem addrOf_eq_ofNat (data : Half) :
    addrOf data = BitVec.ofNat 7 (if data.toNat ∈ [0x10, 0x11, 0x12, 0x73] then data.toNat else 0x73) := by
  split
  · next h => exact addrOf_of_legal h
  · next h => exact addrOf_of_illegal h

/-- R153: 8 and 10 are stored as they are; 12 is the value for every other operand, 12 itself included. -/
theorem resOf_bits (data : Half) :
    (resOf data).bits = if data.toNat ∈ [8, 10, 12] then data.toNat else 12 := by
  by_cases h8 : data = 8#16
  · rw [h8]; rfl
  by_cases h10 : data = 10#16
  · rw [h10]; rfl
  have hres : resOf data = .r12 := by rw [resOf, if_neg h8, if_neg h10]
  rw [hres]
  split
  · next hmem =>
    have hlegal : data = 8#16 ∨ data = 10#16 ∨ data = 12#16 := by simpa [← BitVec.toNat_inj] using hmem
    rw [(hlegal.resolve_left h8).resolve_left h10]; rfl
  · rfl

theorem rateOf_toBit (data : Half) : (rateOf data).toBit = if data.toNat = 400 then 1#1 else 0#1 := by
  rw [rateOf, apply_ite Rate.toBit]
  exact if_congr (BitVec.toNat_inj (y := 400#16)).symm rfl rfl

/-! ### The three setters -/

/-- Settles O27: ROP 0x8 is SET_ADDR, which answers DONE and writes `addrOf DATA` only. -/
theorem setAddrStoresLegalOrGlobal : Obligations.SetAddrStoresLegalOrGlobal := fun ch rsvd data =>
  ⟨ropSelectsTheRequest 0x8#4 ch rsvd data, fun s hb =>
    ⟨false, addrOf data, addrOf_eq_ofNat data, execSetAddr_of_ready ch rsvd data s hb⟩⟩

/-- Settles O28: ROP 0x9 is SET_RES, which answers DONE and writes `resOf DATA` only. -/
theorem setResStoresLegalOrTwelve : Obligations.SetResStoresLegalOrTwelve := fun ch rsvd data =>
  ⟨ropSelectsTheRequest 0x9#4 ch rsvd data, fun s hb =>
    ⟨false, resOf data, resOf_bits data, execSetRes_of_ready ch rsvd data s hb⟩⟩

/-- Settles O29: ROP 0xA is SET_RATE, which answers DONE and writes `rateOf DATA` only. -/
theorem setRateStoresFastOnlyFor400 : Obligations.SetRateStoresFastOnlyFor400 := fun ch rsvd data =>
  ⟨ropSelectsTheRequest 0xA#4 ch rsvd data, fun s hb =>
    ⟨false, rateOf data, rateOf_toBit data, execSetRate_of_ready ch rsvd data s hb⟩⟩

/-- SET_ADDR depends on its operand through the stored address alone, the block busy or not. -/
theorem execSetAddr_congr {data data' : Half} (h : addrOf data = addrOf data') (ch : Nibble) (rsvd : Byte) (s : State) :
    exec (.setAddr ch rsvd data) s = exec (.setAddr ch rsvd data') s :=
  congrArg (fun a => acceptSetter (writeAddr a) s) h

/-- Settles O30: an illegal value and 0x73 both store GLOBAL. -/
theorem illegalAddressEqualsGlobal : Obligations.IllegalAddressEqualsGlobal := by
  intro ch rsvd data s h
  have hglobal : addrOf 0x0073#16 = addrGlobal := by decide
  exact execSetAddr_congr ((addrOf_of_illegal h).trans hglobal.symm) ch rsvd s

/-! ### The frame operation after a setter -/

/-- Settles O31: each setter leaves the block ready with its register written and the other two kept. -/
theorem setterGovernsNextFrame : Obligations.SetterGovernsNextFrame := by
  intro ch rsvd data i op c code s hb hi
  refine ⟨?_, ?_, ?_⟩
  · exact ⟨_, _, execSetAddr_of_ready ch rsvd data s hb, exec_eq_afterSending hi hb, rfl⟩
  · exact ⟨_, _, execSetRes_of_ready ch rsvd data s hb, exec_eq_afterSending hi hb, rfl⟩
  · exact ⟨_, _, execSetRate_of_ready ch rsvd data s hb, exec_eq_afterSending hi hb, rfl⟩

end Sys2Proof.Machine
end

section
/-! SUPPORT. The account of transactions: every one handed over is answered, in flight, or abandoned by a reset
(60_exceptions.md R177, 70_reset_and_hazards.md R191). -/

namespace Sys2Proof.Machine

open Sys2Proof

/-- The configuration, the port and the script stand in no clause of the account. -/
theorem accountInv_of_same {s t : State} (hs : s.AccountInv) (hbusy : t.busy = s.busy) (htxn : t.txn = s.txn)
    (htrace : t.trace = s.trace) (hlen : t.abandoned.length = s.abandoned.length) : t.AccountInv where
  txn_iff_busy := by rw [htxn, hbusy]; exact hs.txn_iff_busy
  count := by rw [htrace, hbusy, hlen]; exact hs.count

/-- ACCEPT of a frame operation: one more `Txn` event, and its transaction in flight. -/
theorem accountInv_launch {s : State} (hs : s.AccountInv) (hb : s.busy = false) (f : List Byte) :
    (launch f s).AccountInv where
  txn_iff_busy := by simp
  count := by
    simpa [hb, Event.isTxn, Event.isXfer, Nat.add_right_comm _ 1] using hs.count

/-- A response that is no XFER is not counted. -/
theorem accountInv_answer {s t : State} {r : Response} (hs : s.AccountInv) (hr : Event.isXfer (.rsp r) = false)
    (hbusy : t.busy = s.busy) (htxn : t.txn = s.txn) (htrace : t.trace = s.trace ++ [.rsp r])
    (hab : t.abandoned = s.abandoned) : t.AccountInv where
  txn_iff_busy := by rw [htxn, hbusy]; exact hs.txn_iff_busy
  count := by simpa [htrace, hbusy, hab, hr, Event.isTxn] using hs.count

theorem accountInv_accepted {s t : State} {i : Instr} (hs : s.AccountInv) (hb : s.busy = false)
    (ha : Accepted s i t) : t.AccountInv := by
  cases ha with
  | frame op chan code =>
    exact accountInv_launch (accountInv_of_same (t := { s with reqValid := false }) hs rfl rfl rfl rfl) hb _
  | setAddr | setRes | setRate => exact accountInv_answer (r := .done) hs rfl rfl rfl rfl rfl
  | illegal => exact accountInv_answer (r := .illegal) hs rfl rfl rfl rfl rfl

/-- COMPLETE: the transaction in flight becomes an XFER response. -/
theorem accountInv_complete {s : State} (hs : s.AccountInv) (hb : s.busy = true) (ts : TStatus) :
    (complete ts s).AccountInv where
  txn_iff_busy := by simp
  count := by simpa [hb, Event.isTxn, Event.isXfer] using hs.count

/-- A reset abandons the transaction in flight, when there is one. -/
theorem abandon_length {s : State} (hs : s.txn = none ↔ s.busy = false) (n : Nat) :
    (abandon n s).length = (if s.busy then 1 else 0) + s.abandoned.length := by
  cases ht : s.txn with
  | none => simp [ht, hs.mp ht]
  | some x =>
    have hb : s.busy = true := by simpa [ht] using hs
    simp [abandon_of_some n s x ht, hb, Nat.add_comm]

/-- Reset: the transaction in flight becomes an abandoned one (R191). -/
theorem accountInv_resetAct {s : State} (hs : s.AccountInv) (n : Nat) : (resetAct n s).AccountInv where
  txn_iff_busy := by simp
  count := by simpa [abandon_length hs.txn_iff_busy n, Nat.add_assoc] using hs.count

/-- Settles O52: ACCEPT of a frame operation adds a transaction in flight, COMPLETE turns it into an XFER response and a
reset into an abandoned one; no other move changes a count. -/
theorem stepKeepsTransactionAccount : Obligations.StepKeepsTransactionAccount := by
  intro s t hs h
  have hu : s.popped.AccountInv := accountInv_of_same hs rfl rfl rfl rfl
  cases step_next s t h with
  | complete ts _ hb _ ht => exact ht ▸ accountInv_complete hu hb ts
  | accept _ hb _ ha => exact accountInv_accepted hu hb ha
  | wait _ _ ht => exact ht ▸ hu
  | present w _ ht => exact ht ▸ accountInv_of_same hu rfl rfl rfl rfl
  | withdraw _ ht => exact ht ▸ accountInv_of_same hu rfl rfl rfl rfl
  | tdone ts _ ht => exact ht ▸ accountInv_of_same hu (by simp) (by simp) (by simp) (by simp)
  | late k ts _ ht => exact ht ▸ accountInv_of_same hu (by simp) (by simp) (by simp) (by simp)
  | reset n _ ht => exact ht ▸ accountInv_resetAct hu n

end Sys2Proof.Machine
end

section
/-! SUPPORT. Every operation commutes with blanking the transport's statuses, so no run depends on one
(60_exceptions.md R175, R179, 10_state.md R31). -/

namespace Sys2Proof.Machine

open Sys2Proof

/-! ### Operations on the state -/

theorem respond_blank (r : Response) (s : State) : respond r.blank s.blank = (respond r s).blank := by
  simp [State.blank, Event.blank]

theorem launch_blank (f : List Byte) (s : State) : launch f s.blank = (launch f s).blank := by
  simp [launch_eq, State.blank, Event.blank]

theorem complete_blank (ts : TStatus) (s : State) : complete 0 s.blank = (complete ts s).blank :=
  respond_blank (.xfer ts) { s with busy := false, txn := none, tret := none }

/-- Whether a status has been returned is the same for a blanked state, so TDONE is enabled alike. -/
theorem tdone_blank (ts : TStatus) (s : State) : tdone 0 s.blank = (tdone ts s).blank := by
  have henabled : (s.blank.busy = true ∧ s.blank.tret = none) ↔ (s.busy = true ∧ s.tret = none) := by
    simp [State.blank]
  by_cases h : s.busy = true ∧ s.tret = none
  · rw [tdone, tdone, if_pos h, if_pos (henabled.mpr h)]
    rfl
  · rw [tdone, tdone, if_neg h, if_neg (mt henabled.mp h)]

theorem tdoneLate_blank (k : Nat) (ts : TStatus) (s : State) : tdoneLate k 0 s.blank = (tdoneLate k ts s).blank := by
  unfold tdoneLate
  cases h : s.abandoned[k]? with
  | some a => simp [State.blank, h]
  | none => simp [State.blank, h]

/-- A status returned and dropped by a reset leaves no more than that it was returned. -/
theorem resetAct_blank (n : Nat) (s : State) : resetAct n s.blank = (resetAct n s).blank := by
  simp [resetAct, abandon, State.blank]

/-! ### Requests -/

theorem accept_blank {body : State → State} (hbody : ∀ s, body s.blank = (body s).blank) (s : State) :
    accept body s.blank = blankOutcome (accept body s) := by
  cases hb : s.busy with
  | true => rw [accept_of_busy body s hb, accept_of_busy body s.blank hb]; rfl
  | false =>
    rw [accept_of_ready body s hb, accept_of_ready body s.blank hb]
    exact congrArg Host.Outcome.next (hbody { s with reqValid := false })

theorem acceptFrame_blank (op : FrameOp) (chan : Nibble) (code : Half) (s : State) :
    acceptFrame op chan code s.blank = blankOutcome (acceptFrame op chan code s) :=
  accept_blank (fun s => launch_blank (frame op chan code s.cfgRes) s) s

theorem acceptSetter_blank {write : State → State} (hwrite : ∀ s, write s.blank = (write s).blank) (s : State) :
    acceptSetter write s.blank = blankOutcome (acceptSetter write s) :=
  accept_blank (fun s => by rw [hwrite]; exact respond_blank .done (write s)) s

theorem exec_blank (i : Instr) (s : State) : exec i s.blank = blankOutcome (exec i s) := by
  cases i with
  | write | store | update | powerDown | powerOff | intRef | extRef => exact acceptFrame_blank _ _ _ s
  | setAddr chan rsvd data => exact acceptSetter_blank (write := writeAddr (addrOf data)) (fun _ => rfl) s
  | setRes chan rsvd data => exact acceptSetter_blank (write := writeRes (resOf data)) (fun _ => rfl) s
  | setRate chan rsvd data => exact acceptSetter_blank (write := writeRate (rateOf data)) (fun _ => rfl) s
  | reserved0 | reservedB | reservedCF => exact accept_blank (respond_blank .illegal) s
  | _ => rfl

/-! ### Moves and runs -/

theorem blockStep_blank (s : State) : blockStep s.blank = blankOutcome (blockStep s) := by
  cases hb : s.busy with
  | true =>
    cases hr : s.tret with
    | some ts =>
      have hr' : s.blank.tret = some 0 := by simp [State.blank, hr]
      rw [blockStep_of_returned hb hr, blockStep_of_returned (s := s.blank) hb hr', complete_blank ts]
      rfl
    | none =>
      have hr' : s.blank.tret = none := by simp [State.blank, hr]
      rw [blockStep_of_unanswered hb hr, blockStep_of_unanswered (s := s.blank) hb hr']
      rfl
  | false =>
    cases hv : s.reqValid with
    | true =>
      rw [blockStep_of_presented hb hv, blockStep_of_presented (s := s.blank) hb hv]
      exact exec_blank (decodeRequest s.reqWord) s
    | false =>
      rw [blockStep_of_no_word hb hv, blockStep_of_no_word (s := s.blank) hb hv]
      rfl

theorem chipStep_blank (f : FrameFormat) (b : Byte) (s : State) :
    chipStep f b s.blank = blankOutcome (chipStep f b s) := by
  unfold chipStep
  cases decodeCommand f b with
  | ok i => exact exec_blank i s
  | error e => rfl

theorem takeTurn_blank (m : Turn) (s : State) : takeTurn m.blank s.blank = blankOutcome (takeTurn m s) := by
  cases m with
  | block => exact blockStep_blank s
  | present | withdraw | bypass => rfl
  | tdone ts => exact congrArg Host.Outcome.next (tdone_blank ts s)
  | late k ts => exact congrArg Host.Outcome.next (tdoneLate_blank k ts s)
  | reset n => exact congrArg Host.Outcome.next (resetAct_blank n s)
  | atChip f b => exact chipStep_blank f b s

/-- A step of the blanked state is the step with its statuses blanked. -/
theorem step_blank (s : State) : step s.blank = blankOutcome (step s) := by
  cases h : s.turns with
  | nil =>
    have h' : s.blank.turns = [] := by simp [State.blank, h]
    rw [step_of_no_turn h, step_of_no_turn h', blockStep_blank]
  | cons m rest =>
    have h' : s.blank.turns = m.blank :: rest.map Turn.blank := by simp [State.blank, h]
    rw [step_of_turn h, step_of_turn h']
    exact takeTurn_blank m { s with turns := rest }

/-- So is a run. -/
theorem run_blank (n : Nat) (s : State) :
    Host.Core.run Sys2Proof.core n s.blank = blankOutcome (Host.Core.run Sys2Proof.core n s) := by
  induction n generalizing s with
  | zero => rfl
  | succ n ih =>
    have hblank := step_blank s
    cases h : step s with
    | next t =>
      rw [h] at hblank
      rw [run_of_next n h, run_of_next n hblank, ih]
    | fault f =>
      rw [h] at hblank
      rw [run_of_fault n h, run_of_fault n hblank]
      rfl
    | refused r =>
      rw [h] at hblank
      rw [run_of_refused n h, run_of_refused n hblank]
      rfl

/-- Settles O57: both blanked outcomes are the outcome of the run from the one blanked state. -/
theorem statusesInfluenceNothing : Obligations.StatusesInfluenceNothing := by
  intro n s s' h
  rw [← run_blank, h, run_blank]

end Sys2Proof.Machine
end

section
/-! SUPPORT. Reserved request words (60_exceptions.md R172), runs that never stop (R170), and several handles (R183). -/

namespace Sys2Proof.Machine

open Sys2Proof

/-! ### Reserved words -/

theorem acceptIllegal_eq_afterAnswering {s : State} (hb : s.busy = false) :
    acceptIllegal s = .next (s.afterAnswering .illegal false) := acceptIllegal_of_ready s hb

/-- A word with a reserved ROP selects a reserved instruction, whatever its other bits (R61, R74). -/
theorem requestOf_reserved {rop : Nibble} (h : rop = 0x0#4 ∨ 0xB#4 ≤ rop) (chan : Nibble) (rsvd : Byte) (data : Half)
    (rest : BitVec 28) :
    requestOf rop chan rsvd data rest = .reserved0 rest ∨ requestOf rop chan rsvd data rest = .reservedB rest ∨
      requestOf rop chan rsvd data rest = .reservedCF rop rest := by
  have hrop : ∀ r : Nibble, 0xB#4 ≤ r → r = 0xB#4 ∨ 0xC#4 ≤ r := by decide
  obtain rfl | h := h
  · exact .inl rfl
  obtain rfl | h := hrop rop h
  · exact .inr (.inl rfl)
  · exact .inr (.inr (requestOf_reservedCF h chan rsvd data rest))

theorem exec_decoded_reserved {rop : Nibble} (h : rop = 0x0#4 ∨ 0xB#4 ≤ rop) (rest : BitVec 28) (s : State) :
    exec (decodeRequest (packRest rop rest)) s = acceptIllegal s := by
  rw [decodeRequest, reqRop_packRest]
  obtain hi | hi | hi := requestOf_reserved h _ _ _ _ <;> rw [hi] <;> rfl

/-- Settles O32: each of the four is the acceptance that answers ILLEGAL. -/
theorem reservedWordsAnswerIllegal : Obligations.ReservedWordsAnswerIllegal := by
  intro rop rest s hb
  have hill := acceptIllegal_eq_afterAnswering hb
  exact ⟨⟨false, hill⟩, ⟨false, hill⟩, ⟨false, hill⟩, fun h => ⟨false, (exec_decoded_reserved h rest s).trans hill⟩⟩

/-! ### Runs that never stop -/

theorem isRequest_of_encode {i : Instr} {w : ReqWord} (h : encode i = .req w) : isRequest i = true := by
  cases i with
  | cmdWriteInput | cmdUpdate | cmdWriteUpdateAll | cmdWriteUpdateOne | cmdPowerDownOne | cmdPowerDownAll
  | cmdInternalRef | cmdExternalRef | cmdNoOp => cases h
  | _ => rfl

/-- The decoder of request words gives no command byte of the chip (R74): its result encodes to a request word. -/
theorem isRequest_decodeRequest (w : ReqWord) : isRequest (decodeRequest w) = true :=
  isRequest_of_encode (encodeOfDecodedWordIsTheWord w).1

/-- The Block's move answers a next state, whatever word stands at the port (R170, R172). -/
theorem blockStep_total (s : State) : ∃ t, blockStep s = .next t := by
  cases hb : s.busy with
  | true =>
    cases hr : s.tret with
    | some ts => exact ⟨_, blockStep_of_returned hb hr⟩
    | none => exact ⟨_, blockStep_of_unanswered hb hr⟩
  | false =>
    cases hv : s.reqValid with
    | true =>
      obtain ⟨t, hexec, -⟩ := exec_request_of_ready (isRequest_decodeRequest s.reqWord) hb
      exact ⟨t, (blockStep_of_presented hb hv).trans hexec⟩
    | false => exact ⟨_, blockStep_of_no_word hb hv⟩

theorem takeTurn_total {m : Turn} (hm : m.ordinary = true) (s : State) : ∃ t, takeTurn m s = .next t := by
  cases m with
  | block => exact blockStep_total s
  | present | withdraw | tdone | late | reset => exact ⟨_, rfl⟩
  | bypass | atChip => cases hm

/-- A step takes the first move off the script and writes no other. -/
theorem step_turns {s t : State} (h : step s = .next t) : t.turns = s.turns.tail := by
  cases step_next s t h with
  | complete _ _ _ _ ht => simp [ht]
  | accept _ _ _ ha =>
    obtain ⟨-, -, hturns⟩ := accepted_signals ha
    exact hturns
  | wait _ _ ht => simp [ht]
  | present _ _ ht => simp [ht]
  | withdraw _ ht => simp [ht]
  | tdone _ _ ht => simp [ht]
  | late _ _ _ ht => simp [ht]
  | reset _ _ ht => simp [ht]

theorem step_of_ordinary {s : State} (hs : ∀ m ∈ s.turns, m.ordinary = true) :
    ∃ t, step s = .next t ∧ t.turns = s.turns.tail ∧ ∀ m ∈ t.turns, m.ordinary = true := by
  have hnext : ∃ t, step s = .next t := by
    cases h : s.turns with
    | nil => rw [step_of_no_turn h]; exact blockStep_total s
    | cons m rest => rw [step_of_turn h]; exact takeTurn_total (hs m (by simp [h])) _
  obtain ⟨t, ht⟩ := hnext
  have hturns := step_turns ht
  exact ⟨t, ht, hturns, fun m hm => hs m (List.mem_of_mem_tail (hturns ▸ hm))⟩

theorem run_of_ordinary (n : Nat) {s : State} (hs : ∀ m ∈ s.turns, m.ordinary = true) :
    ∃ t, Host.Core.run Sys2Proof.core n s = .next t ∧ ∀ m ∈ t.turns, m.ordinary = true := by
  induction n generalizing s with
  | zero => exact ⟨s, rfl, hs⟩
  | succ n ih =>
    obtain ⟨t, hstep, -, ht⟩ := step_of_ordinary hs
    rw [run_of_next n hstep]
    exact ih ht

/-- Settles O56: an ordinary script stays ordinary at every step, so the steps never end. -/
theorem ordinaryRunsNeverStop : Obligations.OrdinaryRunsNeverStop :=
  fun _ hs => ⟨step_of_ordinary hs, fun n => run_of_ordinary n hs⟩

/-! ### Several handles -/

theorem stepHandle_of_next {k : Nat} {hs : List State} {s t : State} (hk : hs[k]? = some s) (h : step s = .next t) :
    stepHandle k hs = .next (hs.set k t) := by simp only [stepHandle, hk, h]

/-- Settles O60: the handle that moves is replaced at its own place in the list. -/
theorem handlesShareNoState : Obligations.HandlesShareNoState := by
  intro k hs s t hk h
  obtain ⟨hlt, -⟩ := List.getElem?_eq_some_iff.mp hk
  exact ⟨hs.set k t, stepHandle_of_next hk h, List.length_set, List.getElem?_set_self hlt,
    fun j hj => List.getElem?_set_ne hj.symm⟩

end Sys2Proof.Machine
end

section
/-! SUPPORT. A block whose transaction is not answered (70_reset_and_hazards.md R195, R202). -/

namespace Sys2Proof.Machine

open Sys2Proof

/-- The request signals and the script are no part of the block. -/
theorem sameBlock_of_signals (s : State) (v : Bool) (w : ReqWord) (l : List Turn) :
    SameBlock s { s with reqValid := v, reqWord := w, turns := l } := ⟨rfl, rfl, rfl, rfl, rfl, rfl, rfl⟩

theorem sameBlock_refl (s : State) : SameBlock s s := sameBlock_of_signals s s.reqValid s.reqWord s.turns

theorem SameBlock.trans {s t u : State} (h : SameBlock s t) (h' : SameBlock t u) : SameBlock s u where
  cfgAddr := h'.cfgAddr.trans h.cfgAddr
  cfgRes := h'.cfgRes.trans h.cfgRes
  cfgRate := h'.cfgRate.trans h.cfgRate
  busy := h'.busy.trans h.busy
  txn := h'.txn.trans h.txn
  trace := h'.trace.trans h.trace
  port := h'.port.trans h.port

/-- A late status passes the block by, whichever transaction it is for (R191). -/
theorem sameBlock_tdoneLate (k : Nat) (ts : TStatus) (s : State) : SameBlock s (tdoneLate k ts s) := by
  constructor <;> simp

/-- A silent turn finds no step of the unanswered block enabled, and returns it no status. -/
theorem takeTurn_of_silent {m : Turn} {s : State} (hm : m.silent = true) (hb : s.busy = true) (hr : s.tret = none) :
    ∃ t, takeTurn m s = .next t ∧ SameBlock s t ∧ t.tret = none := by
  cases m with
  | block => exact ⟨s, blockStep_of_unanswered hb hr, sameBlock_refl s, hr⟩
  | present w => exact ⟨presentWord w s, rfl, sameBlock_of_signals s true w s.turns, hr⟩
  | withdraw => exact ⟨withdrawWord s, rfl, sameBlock_of_signals s false s.reqWord s.turns, hr⟩
  | late k ts => exact ⟨tdoneLate k ts s, rfl, sameBlock_tdoneLate k ts s, by rw [tdoneLate_tret, hr]⟩
  | tdone | reset | bypass | atChip => cases hm

/-- So does a step whose turn is silent, or that has no turn left. -/
theorem step_of_silent {s : State} (hb : s.busy = true) (hr : s.tret = none) (hs : ∀ m ∈ s.turns, m.silent = true) :
    ∃ t, step s = .next t ∧ SameBlock s t ∧ t.tret = none := by
  cases h : s.turns with
  | nil => exact ⟨s, (step_of_no_turn h).trans (blockStep_of_unanswered hb hr), sameBlock_refl s, hr⟩
  | cons m rest =>
    obtain ⟨t, hturn, hsame, hret⟩ := takeTurn_of_silent (s := { s with turns := rest }) (hs m (by simp [h])) hb hr
    exact ⟨t, (step_of_turn h).trans hturn, (sameBlock_of_signals s s.reqValid s.reqWord rest).trans hsame, hret⟩

theorem run_of_silent (n : Nat) {s : State} (hb : s.busy = true) (hr : s.tret = none)
    (hs : ∀ m ∈ s.turns, m.silent = true) :
    ∃ t, Host.Core.run Sys2Proof.core n s = .next t ∧ SameBlock s t ∧ t.tret = none := by
  induction n generalizing s with
  | zero => exact ⟨s, rfl, sameBlock_refl s, hr⟩
  | succ n ih =>
    obtain ⟨t, hstep, hsame, hret⟩ := step_of_silent hb hr hs
    have ht : ∀ m ∈ t.turns, m.silent = true := fun m hm => hs m (List.mem_of_mem_tail (step_turns hstep ▸ hm))
    obtain ⟨u, hrun, hsame', hret'⟩ := ih (hsame.busy.trans hb) hret ht
    exact ⟨u, (run_of_next n hstep).trans hrun, hsame.trans hsame', hret'⟩

/-- Settles O40: every step of a silent script leaves the block waiting, with a silent script. -/
theorem unansweredBlockHangs : Obligations.UnansweredBlockHangs := by
  intro n s hb hr hs
  obtain ⟨t, hrun, hsame, hret⟩ := run_of_silent n hb hr hs
  exact ⟨t, hrun, hsame.busy.trans hb, hret, hsame.txn, hsame.trace, hsame.port, hsame.cfgAddr, hsame.cfgRes,
    hsame.cfgRate⟩

end Sys2Proof.Machine
end

section
/-! SUPPORT. Reset, in the middle of a transaction too, the late status of an abandoned transaction, and the invariants
at the reset state (70_reset_and_hazards.md R190 to R192). -/

namespace Sys2Proof.Machine

open Sys2Proof

/-! ### A reset and a late status as steps -/

theorem step_of_reset {s : State} {reached : Nat} {rest : List Turn} (h : s.turns = .reset reached :: rest) :
    step s = .next (resetAct reached { s with turns := rest }) := step_of_turn h

/-- Settles O45: the registers are the reset's own, and what it adds to the abandoned transactions depends on `TXN`. -/
theorem resetAbandonsTheTransaction : Obligations.ResetAbandonsTheTransaction := by
  intro s reached rest h
  refine ⟨resetAct reached { s with turns := rest }, step_of_reset h, rfl, rfl, rfl, rfl, rfl, rfl, rfl, rfl, rfl, rfl,
    rfl, fun hidle => ?_, fun x hx => ?_⟩
  · exact abandon_of_none reached { s with turns := rest } hidle
  · exact ⟨_, abandon_of_some reached { s with turns := rest } x hx, rfl, rfl⟩

theorem tdoneLate_of_some {k : Nat} {s : State} {a : Abandoned} (h : s.abandoned[k]? = some a) (ts : TStatus) :
    tdoneLate k ts s = { s with abandoned := s.abandoned.set k { a with answered := true } } := by
  simp only [tdoneLate, h]

theorem tdoneLate_of_none {k : Nat} {s : State} (h : s.abandoned[k]? = none) (ts : TStatus) :
    tdoneLate k ts s = s := by simp only [tdoneLate, h]

theorem step_of_late {s : State} {k : Nat} {ts : TStatus} {rest : List Turn} (h : s.turns = .late k ts :: rest) :
    step s = .next (tdoneLate k ts { s with turns := rest }) := step_of_turn h

/-- Settles O46: the number of the late status names an abandoned transaction, or none. -/
theorem lateStatusIsIgnored : Obligations.LateStatusIsIgnored := by
  intro s k ts rest h
  refine ⟨fun a ha => ?_, fun hnone => ?_⟩
  · rw [step_of_late h, tdoneLate_of_some (s := { s with turns := rest }) ha]
  · rw [step_of_late h, tdoneLate_of_none (s := { s with turns := rest }) hnone]

/-! ### The reset state -/

/-- Settles O44: each register as R190 gives it, and `REQ_READY` from BUSY. -/
theorem resetState : Obligations.ResetState := ⟨rfl, rfl, rfl, rfl, rfl, rfl⟩

/-- Settles O47: the address is GLOBAL's, the block is idle, and nothing has been sent or abandoned. -/
theorem resetMeetsInv : Obligations.ResetMeetsInv where
  addr_legal := by decide
  txn_iff_busy := iff_of_true rfl rfl
  tret_busy hret := absurd rfl hret
  txn_legal _ ht := by cases ht
  trace_legal := List.forall_mem_nil _
  abandoned_prefix := List.forall_mem_nil _

theorem reset_orderInv : State.reset.OrderInv where
  busy_txn hb := by cases hb
  first_not_xfer _ h := by cases h
  xfer_after_txn _ _ h := by cases h

theorem reset_accountInv : State.reset.AccountInv where
  txn_iff_busy := iff_of_true rfl rfl
  count := rfl

/-- Settles O49: the trace and the port's record are empty, and no transaction is in flight or abandoned. -/
theorem resetMeetsTraceInvariants : Obligations.ResetMeetsTraceInvariants := ⟨rfl, reset_orderInv, reset_accountInv⟩

end Sys2Proof.Machine
end
